-- ==== Sys2Proof/Word.lean ====
section
/-! DEFINITION. The bit-vector types of the block (00_scope.md R9, R10): bytes, port scalars, header words, RX symbols. -/

namespace Sys2Proof

/-- A byte: 8 bits, bit 7 the most significant (R9). -/
abbrev Byte := BitVec 8

/-- A 16-bit scalar of the command port, `a1 : a0` or `r1 : r0` (R53). -/
abbrev Half := BitVec 16

/-- The 32-bit header of a command request or response (R80, R81). -/
abbrev Word := BitVec 32

/-- One RX symbol: bit 8 `eof`, bits 7:0 `b` (R86). -/
abbrev Symbol := BitVec 9

end Sys2Proof
end

