-- ==== Sys2Proof/Config.lean ====
section
/-! DEFINITION. The constants of the block and the type of its instantiation parameters (00_scope.md R6). -/

namespace Sys2Proof

/-- `MARKER`: the frame-start sentinel, fixed at `0xFF` (R6, decision D1). -/
def Config.marker : Byte := 0xFF#8

/-- `LEN_OFF_SHORT`: where a short-header frame holds its length (R6). -/
def Config.lenOffShort : Nat := 1

/-- `LEN_OFF_NORMAL`: where a normal-class frame holds its length (R6). -/
def Config.lenOffNormal : Nat := 2

/-- `MIN_FRAME`: the smallest frame (R6, conflict C7). -/
def Config.minFrame : Nat := 4

/-- `MAX_FRAME`: the largest value the one-byte length field can hold (R6, R72). -/
def Config.maxFrame : Nat := 255

/-- `HDR_LEN`: where the payload begins, in both classes (R6, R76). -/
def Config.hdrLen : Nat := 3

/-- `RXCAP`: the number of bytes of `RXBUF`, and of `PENDBUF` (R6, R22, R24). -/
def Config.rxCap : Nat := 255

/-- `VXFORM`: which transform the value codec uses (R6, R77, R78). -/
inductive VXForm where
  /-- The canonical transform, used by this hardware (R102, R103). -/
  | perByte
  /-- The prose transform, selectable but not selected by this hardware (R104, R105). -/
  | whole
  deriving DecidableEq, Repr

/-- The parameters that are fixed when the block is instantiated and that no operation changes (R6).
`ACK_OPCODE` and `SHORT_SET` are OPEN in the spec: every statement is for every value of them. -/
structure Params where
  /-- `ACK_OPCODE`: any byte. -/
  ackOpcode : Byte
  /-- `SHORT_SET`: any set of bytes, listed; repeats and order do not matter. -/
  shortSet : List Byte
  /-- `VXFORM`. -/
  vxform : VXForm
  deriving DecidableEq, Repr

/-- The sample configuration CFG-V of R14, with the transform this hardware uses.
PRESUMED (log entry 2): the two OPEN values are the spec's samples, not the source's. -/
def Params.cfgV : Params :=
  { ackOpcode := 0x21#8, shortSet := [0x0C#8, 0x0D#8, 0x53#8, 0x54#8], vxform := .perByte }

end Sys2Proof
end

