-- ==== Sys2Proof/Machine/State.lean ====
section
/-! DEFINITION. The state of the block (10_state.md R20), its ports as plain data, the reasons a step can stop, and the
state after reset (R32). -/

namespace Sys2Proof.Machine

/-- A byte-addressed space of the block (20_memory.md R50): cells (offset, byte), offsets strictly rising.
An offset that is not listed holds no value (10_state.md R33; log entry 7). -/
abbrev Memory := List Host.Cell

/-- The two agents (60_exceptions.md R203). -/
inductive Agent where
  /-- Takes one step per command request. -/
  | foreground
  /-- Takes one step per RX symbol, only while `RUN = 1`. -/
  | receiver
  deriving DecidableEq, Repr

/-- The causes of `MalformedFrame` (60_exceptions.md R191). -/
inductive MalformedCause where
  /-- Cause 1, `TOO_SHORT`. -/
  | tooShort
  /-- Cause 2, `OPCODE_MISMATCH`. -/
  | opcodeMismatch
  /-- Cause 3, `LEN_MISMATCH`. -/
  | lenMismatch
  /-- Cause 4, `CHECKSUM`. -/
  | checksum
  deriving DecidableEq, Repr

/-- The causes of `BuildReject` (R192). -/
inductive BuildCause where
  /-- Cause 1, `SHORT`. -/
  | short
  /-- Cause 2, `LONG`. -/
  | long
  deriving DecidableEq, Repr

/-- The causes of `IllegalCommand` (R194). -/
inductive IllegalCause where
  /-- Cause 1: a reserved select code. -/
  | reservedSelect
  /-- Cause 2: reserved header bits that are not zero. -/
  | reservedBits
  deriving DecidableEq, Repr

/-- The errors the block raises, with their causes (R190). `Timeout` and `TransportClosed` are the host's (R195, R196):
no response carries them, so they are no constructors here. -/
inductive CmdError where
  /-- `err = 1`, raised by `PARSE`. -/
  | malformedFrame (c : MalformedCause)
  /-- `err = 4`, raised by `FIN` and `BUILD`. -/
  | buildReject (c : BuildCause)
  /-- `err = 5`, cause 1, raised by `VENC`. -/
  | rangeError
  /-- `err = 6`, raised by the command port. -/
  | illegalCommand (c : IllegalCause)
  deriving DecidableEq, Repr

/-- A command response (30_encoding.md R81). The field `m` of its header is the number of data bytes. -/
inductive Response where
  /-- `err = 0`: the scalar results and the data bytes. -/
  | ok (r1 r0 : Byte) (data : List Byte)
  /-- `err ≠ 0`: the header carries code and cause and zeros elsewhere, and no data follows. -/
  | error (e : CmdError)
  deriving DecidableEq, Repr

/-- The state. The first eight fields are the spec's complete architectural state (R20); the others are the model's own:
the instantiation parameters (log entry 1) and the ports (log entries 3, 4, 5). -/
structure State where
  /-- `RXBUF[0..254]` (R22). -/
  rxbuf : Memory
  /-- `RXLEN`, an integer in `0..256` (R23). -/
  rxlen : Fin 257
  /-- `PENDBUF[0..254]` (R24). -/
  pendbuf : Memory
  /-- `PENDLEN`, `0..255` (R24). -/
  pendlen : Fin 256
  /-- `PENDV` (R25). -/
  pendv : Bool
  /-- `TCLOSED` (R26). -/
  tclosed : Bool
  /-- `RUN` (R28). -/
  run : Bool
  /-- `CHKEN` (R29). -/
  chken : Bool
  /-- The parameters, which no operation writes (00_scope.md R6). -/
  cfg : Params
  /-- Bytes of the command request stream that have arrived and are not consumed (30_encoding.md R80). -/
  cmdIn : List Byte
  /-- RX symbols the transport offers, first one first (R86, 20_memory.md R62). -/
  rxIn : List Symbol
  /-- Whose turn comes next (20_memory.md R58). -/
  sched : List Agent
  /-- The responses given, oldest first (30_encoding.md R81). -/
  rspOut : List Response
  /-- The frames emitted on the OBS port, oldest first (30_encoding.md R88). -/
  obsOut : List (List Byte)
  deriving DecidableEq, Repr

/-- Why the machine stops with a fault. -/
inductive Fault where
  /-- Raised by `RXB` and `PREAD` when they read a buffer byte that holds no value. Safe: R33 says no rule reads one,
  and the model's invariant rules it out, so only states that no run reaches stop here (log entry 7). -/
  | noValue
  /-- Raised by `RXB` and `RXEOF` executed while `RUN = 0`, where the receiver agent has no step (R28, R152; treatment
  "stuck", U17). Safe: the port offers no symbol then, so `step` never stops here (log entry 9). -/
  | receiverStopped
  deriving DecidableEq, Repr

/-- Why an instruction is refused. -/
inductive Refusal where
  /-- Raised by an arm of `exec` whose instruction has no meaning yet; no arm is one. Safe. -/
  | notModelled (mnemonic : String)
  deriving DecidableEq, Repr

/-- The machine right after power-on: the values of R32; the two buffers hold no value. `PENDLEN = 0` is a DESIGN CHOICE
(log entry 6), the parameters are PRESUMED (log entry 2), and the ports are empty (log entries 3, 4, 5). -/
def State.reset : State :=
  { rxbuf := [], rxlen := 0, pendbuf := [], pendlen := 0
    pendv := false, tclosed := false, run := false, chken := true
    cfg := Params.cfgV
    cmdIn := [], rxIn := [], sched := [], rspOut := [], obsOut := [] }

end Sys2Proof.Machine
end

