-- ==== Sys2Proof/Syntax.lean ====
section
/-! DEFINITION. The operations and events of the block: one constructor per row of spec/opcode_table.json. -/

namespace Sys2Proof

/-- What a command request carries beside its select code (30_encoding.md R80): every command has all four, and a
command ignores those it does not use. The field `n` of the header is the number of data bytes. -/
structure Args where
  /-- Header bit 24, the flag operand. -/
  f : Bool
  /-- Header bits 23:16. -/
  a1 : Byte
  /-- Header bits 15:8. -/
  a0 : Byte
  /-- The data bytes `d[0] .. d[n-1]`, in index order. -/
  data : List Byte
  deriving DecidableEq, Repr

/-- The sixteen select codes of the command port (R82) and the two events of the RX port (R86). -/
inductive Instr where
  /-- `NOP`, select `0x0`. -/
  | nop (a : Args)
  /-- `VENC`, select `0x1`. -/
  | venc (a : Args)
  /-- `VDEC`, select `0x2`. -/
  | vdec (a : Args)
  /-- `CHKV`, select `0x3`. -/
  | chkv (a : Args)
  /-- `FIN`, select `0x4`. -/
  | fin (a : Args)
  /-- `BUILD`, select `0x5`. -/
  | build (a : Args)
  /-- `PARSE`, select `0x6`. -/
  | parse (a : Args)
  /-- The reserved select code `0x7`. -/
  | reserved7 (a : Args)
  /-- `START`, select `0x8`. -/
  | start (a : Args)
  /-- `STOP`, select `0x9`. -/
  | stop (a : Args)
  /-- `PCLR`, select `0xA`. -/
  | pclr (a : Args)
  /-- `PREAD`, select `0xB`. -/
  | pread (a : Args)
  /-- `CTRLW`, select `0xC`. -/
  | ctrlw (a : Args)
  /-- `STATR`, select `0xD`. -/
  | statr (a : Args)
  /-- The reserved select code `0xE`. -/
  | reservedE (a : Args)
  /-- `RESET`, select `0xF`. -/
  | reset (a : Args)
  /-- `RXB`: the transport delivered the byte `b` (R86, R152). -/
  | rxb (b : Byte)
  /-- `RXEOF`: the transport reported end of stream; bits 7:0 of the symbol are ignored (R86, R154). -/
  | rxeof (ignored : Byte)
  deriving DecidableEq, Repr

/-- A command's operands; an RX event has none. -/
def Instr.args? : Instr → Option Args
  | .nop a | .venc a | .vdec a | .chkv a | .fin a | .build a | .parse a | .reserved7 a
  | .start a | .stop a | .pclr a | .pread a | .ctrlw a | .statr a | .reservedE a | .reset a => some a
  | .rxb _ | .rxeof _ => none

end Sys2Proof
end

