-- ==== Sys2Proof/Machine/Operands.lean ====
section
/-! DEFINITION. How operands are assembled and results laid out (30_encoding.md R85), the transforms of the value codec
(40_value_codec.md R102 to R105), and the byte-string functions of a frame (R7, R10, R74, R121). -/

namespace Sys2Proof.Machine

/-! ### Scalars of the command port -/

/-- `a1 : a0` or `r1 : r0` as a 16-bit pattern (R53). -/
def half (hi lo : Byte) : Half := hi ++ lo

/-- `VENC`'s operand, `sext_16(a1 : a0)` (R85, R106). -/
def signedOperand (a : Args) : Int := (half a.a1 a.a0).toInt

/-- `u16(v)`: the 16-bit two's-complement pattern of a signed integer (R10). -/
def u16 (v : Int) : Half := BitVec.ofInt 16 v

/-- The upper byte of a 16-bit pattern. -/
def hiByte (w : Half) : Byte := w.extractLsb' 8 8

/-- The lower byte of a 16-bit pattern. -/
def loByte (w : Half) : Byte := w.extractLsb' 0 8

/-! ### The value codec -/

/-- `VMIN` (R101). -/
def vmin : VXForm → Int
  | .perByte => -8192
  | .whole => -16384

/-- `VMAX` (R101). -/
def vmax : VXForm → Int
  | .perByte => 8191
  | .whole => 16383

/-- `encP` (R102): the whole value is shifted left by one, then the high byte once more. Answers `(b0, b1)`. -/
def encP (v : Int) : Byte × Byte :=
  let w := u16 v <<< 1
  (loByte w, hiByte w <<< 1)

/-- `decP` (R103): bit 0 of each byte is dropped and the 14 remaining bits are sign-extended. -/
def decP (b0 b1 : Byte) : Int :=
  let t : BitVec 14 := ((b1 >>> 1).setWidth 14 <<< 7) ||| (b0 >>> 1).setWidth 14
  t.toInt

/-- `encW` (R104): the whole value is shifted left by one and split. Answers `(b0, b1)`. -/
def encW (v : Int) : Byte × Byte :=
  let w := u16 v <<< 1
  (loByte w, hiByte w)

/-- `decW` (R105): the reassembled 16-bit value, halved, rounding toward minus infinity. -/
def decW (b0 b1 : Byte) : Int :=
  let w : Half := (b1.setWidth 16 <<< 8) ||| b0.setWidth 16
  w.toInt / 2

/-- `encode` under the selected transform (R106). -/
def encodeValue (x : VXForm) (v : Int) : Byte × Byte :=
  match x with
  | .perByte => encP v
  | .whole => encW v

/-- `decode` under the selected transform (R107). -/
def decodeValue (x : VXForm) (b0 b1 : Byte) : Int :=
  match x with
  | .perByte => decP b0 b1
  | .whole => decW b0 b1

/-! ### Byte strings -/

/-- `XOR(s)` (R10): the fold of a byte string with exclusive-or, 0 for the empty string. -/
def xorFold (s : List Byte) : Byte := s.foldl (fun x b => x ^^^ b) 0#8

/-- `length_offset(o)` (R7): where a frame whose byte at offset 1 is `o` holds its length. -/
def lengthOffset (p : Params) (o : Byte) : Nat :=
  if o ∈ p.shortSet then Config.lenOffShort else Config.lenOffNormal

/-- `s[i]` of a byte string; every use has `i` inside the string. -/
def byteAt (s : List Byte) (i : Nat) : Byte := s.getD i 0#8

/-- `assemble(op, p)` (R121). -/
def assemble (op : Byte) (p : List Byte) : List Byte :=
  [Config.marker, op, 0#8] ++ p ++ [0#8]

/-- The patcher of `FIN` (R122), on a working copy `OPBUF` of at least four bytes: the length is written at the offset
the incoming byte 1 selects, then the checksum of all bytes but the last is written in the last. -/
def patch (p : Params) (s : List Byte) : List Byte :=
  let n := s.length
  let t := s.set (lengthOffset p (byteAt s 1)) (BitVec.ofNat 8 n)
  t.set (n - 1) (xorFold (t.take (n - 1)))

/-- `FIN` (R122): a frame of fewer than four bytes is rejected. -/
def finalise (p : Params) (s : List Byte) : Except CmdError (List Byte) :=
  if s.length < Config.minFrame then .error (.buildReject .short) else .ok (patch p s)

/-- `BUILD` (R123): a payload too long for the one-byte length field is rejected before anything is assembled. -/
def buildFrame (p : Params) (op : Byte) (payload : List Byte) : Except CmdError (List Byte) :=
  if payload.length + 4 > Config.maxFrame then .error (.buildReject .long)
  else finalise p (assemble op payload)

/-- `s[3..n-2]` (R76): the payload of a frame of `n` bytes. -/
def payloadOf (s : List Byte) : List Byte := (s.drop Config.hdrLen).take (s.length - 4)

/-- `PARSE` (R124): the checks in the order of R198, then the opcode and the payload. -/
def parseFrame (p : Params) (chken expectValid : Bool) (expected : Byte) (s : List Byte) :
    Except CmdError (Byte × List Byte) :=
  let n := s.length
  let op := byteAt s 1
  if n < Config.minFrame then .error (.malformedFrame .tooShort)
  else if (byteAt s (lengthOffset p op)).toNat ≠ n then .error (.malformedFrame .lenMismatch)
  else if chken ∧ xorFold s ≠ 0#8 then .error (.malformedFrame .checksum)
  else if expectValid ∧ op ≠ expected then .error (.malformedFrame .opcodeMismatch)
  else .ok (op, payloadOf s)

end Sys2Proof.Machine
end

