-- ==== Sys2Proof/Machine/Ops.lean ====
section
/-! DEFINITION. The named operations over the buffers, the state elements and the ports, and the error response, which is
the block's whole trap entry (60_exceptions.md R199). -/

namespace Sys2Proof.Machine

/-! ### The byte-addressed spaces (20_memory.md R50, R54) -/

/-- The canonical form: offsets strictly rising and inside the space, `0 .. 254` (R22, R24). Every listed offset differs
from an unlisted one, which holds no value, so no entry is redundant. -/
abbrev Memory.wf (m : Memory) : Prop :=
  m.Pairwise (fun x y => x.1 < y.1) ∧ ∀ c ∈ m, c.1 < Config.rxCap

/-- `MemRead(space, off, 1)` (00_scope.md R11): the byte at an offset, or none where nothing has been written (R33). -/
def Memory.read : Memory → Nat → Option Byte
  | [], _ => none
  | (a, b) :: m, off => if a = off then some b else Memory.read m off

/-- `MemWrite(space, off, 1, b)` (R11), keeping the canonical form. -/
def Memory.write : Memory → Nat → Byte → Memory
  | [], off, b => [(off, b)]
  | (a, c) :: m, off, b =>
    if off < a then (off, b) :: (a, c) :: m
    else if off = a then (off, b) :: m
    else (a, c) :: Memory.write m off b

/-- The `k` bytes at `off, off + 1, …`, or none where one of them holds no value. -/
def Memory.readBytes (m : Memory) (off : Nat) : Nat → Option (List Byte)
  | 0 => some []
  | k + 1 =>
    match m.read off, Memory.readBytes m (off + 1) k with
    | some b, some bs => some (b :: bs)
    | _, _ => none

/-- Writes a byte string at `off, off + 1, …`. -/
def Memory.writeBytes (m : Memory) (off : Nat) : List Byte → Memory
  | [] => m
  | b :: bs => Memory.writeBytes (m.write off b) (off + 1) bs

/-! ### The state elements -/

/-- `RXLEN <- 0`: empties the receive buffer. The bytes stay where they are and mean nothing (log entry 8). -/
def State.emptyRx (s : State) : State := { s with rxlen := 0 }

/-- `RXLEN <- min(RXLEN + 1, 256)` (R23, R152). -/
def countUp (n : Fin 257) : Fin 257 := ⟨min (n.val + 1) 256, by omega⟩

/-- Part 2 of `RXB` (R152): the byte is stored at `RXBUF[RXLEN]` if that offset exists, and `RXLEN` counts up. -/
def State.appendRx (s : State) (b : Byte) : State :=
  { s with
    rxbuf := if s.rxlen.val < Config.rxCap then s.rxbuf.write s.rxlen.val b else s.rxbuf
    rxlen := countUp s.rxlen }

/-- Places a frame in the mailbox (R24, R153): `PENDBUF[0..n-1]`, `PENDLEN`, `PENDV`. -/
def State.placePending (s : State) (fr : List Byte) : State :=
  { s with
    pendbuf := s.pendbuf.writeBytes 0 fr
    pendlen := Fin.ofNat 256 fr.length
    pendv := true }

/-- `PENDV <- 0` (43_mailbox.md R170). -/
def State.clearPending (s : State) : State := { s with pendv := false }

/-- `RUN <- v` (R28). -/
def State.setRun (s : State) (v : Bool) : State := { s with run := v }

/-- `TCLOSED <- v` (R26). -/
def State.setTclosed (s : State) (v : Bool) : State := { s with tclosed := v }

/-- `CHKEN <- v` (R29). -/
def State.setChken (s : State) (v : Bool) : State := { s with chken := v }

/-- The reset state of R32 in the eight state elements: the power-on values of `State.reset`. The parameters are not
state and are not affected (R174); the ports are not state elements (log entry 5). -/
def State.resetBlock (s : State) : State :=
  { s with
    rxbuf := State.reset.rxbuf, rxlen := State.reset.rxlen
    pendbuf := State.reset.pendbuf, pendlen := State.reset.pendlen
    pendv := State.reset.pendv, tclosed := State.reset.tclosed
    run := State.reset.run, chken := State.reset.chken }

/-! ### The ports -/

/-- One response on the command port (30_encoding.md R81). -/
def State.respond (s : State) (r : Response) : State := { s with rspOut := s.rspOut ++ [r] }

/-- `emit OBS(fr)` (R88). -/
def State.emitObs (s : State) (fr : List Byte) : State := { s with obsOut := s.obsOut ++ [fr] }

/-- The bytes that stand at the command port from now on. -/
def State.setCmdIn (s : State) (bytes : List Byte) : State := { s with cmdIn := bytes }

/-- The symbols that stand at the RX port from now on. -/
def State.setRxIn (s : State) (symbols : List Symbol) : State := { s with rxIn := symbols }

/-- The turns from now on. -/
def State.setSched (s : State) (turns : List Agent) : State := { s with sched := turns }

/-- The level output `pend_valid`, equal to `PENDV` at all times (R91). -/
def pendValid (s : State) : Bool := s.pendv

/-! ### Ending an operation -/

/-- `return (...)` (R11): an `OK` response. -/
def reply (r1 r0 : Byte) (data : List Byte) (s : State) : Host.Outcome State Fault Refusal :=
  .next (s.respond (.ok r1 r0 data))

/-- `raise <Error>(cause)` (R11, R199): the error response, and nothing else: no state element changes, nothing is saved,
no handler is entered. There is no return from it and nothing to restore (R200). -/
def raise (e : CmdError) (s : State) : Host.Outcome State Fault Refusal :=
  .next (s.respond (.error e))

/-! ### Port formats of the outputs -/

/-- The error kinds with a code, those of the host among them (R190). -/
inductive ErrKind where
  /-- Success. -/
  | ok
  /-- Raised by `PARSE`. -/
  | malformedFrame
  /-- The host's; never produced by the block (R195). -/
  | timeout
  /-- The host's; never produced by the block (R196). -/
  | transportClosed
  /-- Raised by `FIN` and `BUILD`. -/
  | buildReject
  /-- Raised by `VENC`. -/
  | rangeError
  /-- Raised by the command port. -/
  | illegalCommand
  deriving DecidableEq, Repr

/-- The `err` code of each kind (R190). -/
def errCode : ErrKind → BitVec 4
  | .ok => 0
  | .malformedFrame => 1
  | .timeout => 2
  | .transportClosed => 3
  | .buildReject => 4
  | .rangeError => 5
  | .illegalCommand => 6

/-- The kind of an error. -/
def errorKind : CmdError → ErrKind
  | .malformedFrame _ => .malformedFrame
  | .buildReject _ => .buildReject
  | .rangeError => .rangeError
  | .illegalCommand _ => .illegalCommand

/-- The `cause` code of an error (R191 to R194). -/
def errorCause : CmdError → BitVec 4
  | .malformedFrame .tooShort => 1
  | .malformedFrame .opcodeMismatch => 2
  | .malformedFrame .lenMismatch => 3
  | .malformedFrame .checksum => 4
  | .buildReject .short => 1
  | .buildReject .long => 2
  | .rangeError => 1
  | .illegalCommand .reservedSelect => 1
  | .illegalCommand .reservedBits => 2

/-- The header of a response (30_encoding.md R81): `err`, `cause`, `r1`, `r0`, `m`. -/
def responseHeader : Response → Word
  | .ok r1 r0 data => errCode .ok ++ 0#4 ++ r1 ++ r0 ++ BitVec.ofNat 8 data.length
  | .error e => errCode (errorKind e) ++ errorCause e ++ 0#8 ++ 0#8 ++ 0#8

/-- The data bytes of a response. -/
def responseData : Response → List Byte
  | .ok _ _ data => data
  | .error _ => []

/-- A response as it travels on the command port: the four header bytes, then the data (R81). DESIGN CHOICE (log entry 15):
R81 gives the header bytes no order; they travel bits 31:24 first, as R80 says of a request. -/
def responseBytes (r : Response) : List Byte :=
  let w := responseHeader r
  [w.extractLsb' 24 8, w.extractLsb' 16 8, w.extractLsb' 8 8, w.extractLsb' 0 8] ++ responseData r

/-- An OBS event as it travels: a count byte, then the raw frame (R88). -/
def obsBytes (fr : List Byte) : List Byte := BitVec.ofNat 8 fr.length :: fr

end Sys2Proof.Machine
end

