-- ==== Sys2Proof/Machine/FrameCodec.lean ====
section
/-! DEFINITION. Checksum validation, the patcher, the builder and the parser: `CHKV`, `FIN`, `BUILD`, `PARSE`
(41_frame_codec.md). -/

namespace Sys2Proof.Machine

/-- `CHKV` (R120): `r0` is the XOR of all data bytes, `r1 = 1` if it is 0, else 0. -/
def execChkv (a : Args) (s : State) : Host.Outcome State Fault Refusal :=
  let x := xorFold a.data
  reply (if x = 0#8 then 1#8 else 0#8) x [] s

/-- `FIN` (R122): the data finalised, or `BuildReject(1)`. -/
def execFin (a : Args) (s : State) : Host.Outcome State Fault Refusal :=
  match finalise s.cfg a.data with
  | .ok fr => reply 0#8 0#8 fr s
  | .error e => raise e s

/-- `BUILD` (R123): the frame of opcode `a0` and the data as payload, or `BuildReject(2)`; `a1` and `f` are ignored. -/
def execBuild (a : Args) (s : State) : Host.Outcome State Fault Refusal :=
  match buildFrame s.cfg a.a0 a.data with
  | .ok fr => reply 0#8 0#8 fr s
  | .error e => raise e s

/-- `PARSE` (R124): `r0` is the opcode and the data is the payload, or `MalformedFrame`; `CHKEN` is read, `a1` ignored,
and `a0` used only when `f = 1`. -/
def execParse (a : Args) (s : State) : Host.Outcome State Fault Refusal :=
  match parseFrame s.cfg s.chken a.f a.a0 a.data with
  | .ok (op, payload) => reply 0#8 op payload s
  | .error e => raise e s

end Sys2Proof.Machine
end

