-- ==== Sys2Proof/Machine/Flags.lean ====
section
/-! DEFINITION. The control and status register (10_state.md R27): its view of the four flags, and its one writable bit. -/

namespace Sys2Proof.Machine

/-- The CSR as `STATR` reads it (R27, R173): `0000 : TCLOSED : PENDV : CHKEN : RUN`. The block has no other flag: its
arithmetic sets none (40_value_codec.md R111). -/
def csr (s : State) : Byte :=
  0#4 ++ BitVec.ofBool s.tclosed ++ BitVec.ofBool s.pendv ++ BitVec.ofBool s.chken ++ BitVec.ofBool s.run

/-- What `CTRLW` writes (R27, R172): bit 1 goes to `CHKEN`; the read-only and the reserved bits are ignored. -/
def writeCsr (s : State) (v : Byte) : State := s.setChken (v.getLsbD 1)

end Sys2Proof.Machine
end

