-- ==== Sys2Proof/Machine/Mailbox.lean ====
section
/-! DEFINITION. The mailbox, control, status and idle operations and the reserved select codes: `NOP`, `PCLR`, `PREAD`,
`CTRLW`, `STATR`, `RESET`, `0x7`, `0xE` (43_mailbox.md). -/

namespace Sys2Proof.Machine

/-- `NOP` (R175): an `OK` response of zeros. -/
def execNop (_a : Args) (s : State) : Host.Outcome State Fault Refusal :=
  reply 0#8 0#8 [] s

/-- `PCLR` (R170): `PENDV <- 0`; the buffer and its length stay. -/
def execPclr (_a : Args) (s : State) : Host.Outcome State Fault Refusal :=
  reply 0#8 0#8 [] s.clearPending

/-- `PREAD` (R171): the frame in the mailbox with `r1 = 1`, or `r1 = 0` and no data when the mailbox is empty. -/
def execPread (_a : Args) (s : State) : Host.Outcome State Fault Refusal :=
  if s.pendv then
    match s.pendbuf.readBytes 0 s.pendlen.val with
    | some fr => reply 1#8 0#8 fr s
    | none => .fault .noValue
  else reply 0#8 0#8 [] s

/-- `CTRLW` (R172): `CHKEN <- a0[1]`. -/
def execCtrlw (a : Args) (s : State) : Host.Outcome State Fault Refusal :=
  reply 0#8 0#8 [] (writeCsr s a.a0)

/-- `STATR` (R173): `r0` is the CSR. -/
def execStatr (_a : Args) (s : State) : Host.Outcome State Fault Refusal :=
  reply 0#8 (csr s) [] s

/-- `RESET` (R174): the reset state of R32. -/
def execReset (_a : Args) (s : State) : Host.Outcome State Fault Refusal :=
  reply 0#8 0#8 [] s.resetBlock

/-- The reserved select code `0x7` (R176): `IllegalCommand(1)`. -/
def execReserved7 (_a : Args) (s : State) : Host.Outcome State Fault Refusal :=
  raise (.illegalCommand .reservedSelect) s

/-- The reserved select code `0xE` (R176): `IllegalCommand(1)`. -/
def execReservedE (_a : Args) (s : State) : Host.Outcome State Fault Refusal :=
  raise (.illegalCommand .reservedSelect) s

end Sys2Proof.Machine
end

