-- ==== Sys2Proof/Machine/Receiver.lean ====
section
/-! DEFINITION. The sentinel detector and the framing state machine: `RXB`, `RXEOF`, `START`, `STOP`
(42_frame_receiver.md). -/

namespace Sys2Proof.Machine

/-- The frame-start sentinel detector (R151): a marker byte empties the buffer, in whatever state the receiver is. -/
def detectMarker (b : Byte) (s : State) : State :=
  if b = Config.marker then s.emptyRx else s

/-- Dispatch of a complete frame (R153): the OBS event for every frame, then the mailbox unless the byte at offset 1 is
`ACK_OPCODE`, then the buffer is emptied. -/
def dispatch (fr : List Byte) (s : State) : State :=
  let observed := s.emitObs fr
  let placed := if byteAt fr 1 = s.cfg.ackOpcode then observed else observed.placePending fr
  placed.emptyRx

/-- Part 3 of `RXB` (R152), the completion test: made from the fourth byte on and not past the 255th. -/
def completeRx (s : State) : Host.Outcome State Fault Refusal :=
  let n := s.rxlen.val
  if 3 < n ∧ n ≤ Config.rxCap then
    match s.rxbuf.read 1 with
    | none => .fault .noValue
    | some op =>
      match s.rxbuf.read (lengthOffset s.cfg op) with
      | none => .fault .noValue
      | some len =>
        if len.toNat = n then
          match s.rxbuf.readBytes 0 n with
          | none => .fault .noValue
          | some fr => .next (dispatch fr s)
        else .next s
  else .next s

/-- `RXB` (R152): the sentinel test, the append and the completion test. While `RUN = 0` the event cannot occur. -/
def execRxb (b : Byte) (s : State) : Host.Outcome State Fault Refusal :=
  if s.run then completeRx ((detectMarker b s).appendRx b) else .fault .receiverStopped

/-- `RXEOF` (R154): `TCLOSED <- 1`, `RUN <- 0`; the low byte of the symbol is ignored. While `RUN = 0` the event cannot
occur. -/
def execRxeof (_ignored : Byte) (s : State) : Host.Outcome State Fault Refusal :=
  if s.run then .next ((s.setTclosed true).setRun false) else .fault .receiverStopped

/-- `START` (R155): `RXLEN <- 0`, `TCLOSED <- 0`, `RUN <- 1`, whether or not the receiver was running. -/
def execStart (_a : Args) (s : State) : Host.Outcome State Fault Refusal :=
  reply 0#8 0#8 [] ((s.emptyRx.setTclosed false).setRun true)

/-- `STOP` (R156): `RUN <- 0`. -/
def execStop (_a : Args) (s : State) : Host.Outcome State Fault Refusal :=
  reply 0#8 0#8 [] (s.setRun false)

end Sys2Proof.Machine
end

