-- ==== Sys2Proof/Machine/ValueCodec.lean ====
section
/-! DEFINITION. The marker-avoidant integer encoder: `VENC` and `VDEC` (40_value_codec.md). -/

namespace Sys2Proof.Machine

/-- `VENC` (R106): a value outside the representable range of the selected transform raises `RangeError(1)`; else
`r0 = b0`, `r1 = b1`. -/
def execVenc (a : Args) (s : State) : Host.Outcome State Fault Refusal :=
  let v := signedOperand a
  if v < vmin s.cfg.vxform ∨ v > vmax s.cfg.vxform then raise .rangeError s
  else
    let (b0, b1) := encodeValue s.cfg.vxform v
    reply b1 b0 [] s

/-- `VDEC` (R107): any two bytes decode; `r1 : r0 = u16(v)`. -/
def execVdec (a : Args) (s : State) : Host.Outcome State Fault Refusal :=
  let v := decodeValue s.cfg.vxform a.a0 a.a1
  reply (hiByte (u16 v)) (loByte (u16 v)) [] s

end Sys2Proof.Machine
end

