-- ==== Sys2Proof/Machine/Dispatch.lean ====
section
/-! DEFINITION. One arm per constructor of Instr: the meaning of each operation and event. -/

namespace Sys2Proof.Machine

def exec (i : Instr) (s : State) : Host.Outcome State Fault Refusal :=
  match i with
  | .nop a => Sys2Proof.Machine.execNop a s
  | .venc a => Sys2Proof.Machine.execVenc a s
  | .vdec a => Sys2Proof.Machine.execVdec a s
  | .chkv a => Sys2Proof.Machine.execChkv a s
  | .fin a => Sys2Proof.Machine.execFin a s
  | .build a => Sys2Proof.Machine.execBuild a s
  | .parse a => Sys2Proof.Machine.execParse a s
  | .reserved7 a => Sys2Proof.Machine.execReserved7 a s
  | .start a => Sys2Proof.Machine.execStart a s
  | .stop a => Sys2Proof.Machine.execStop a s
  | .pclr a => Sys2Proof.Machine.execPclr a s
  | .pread a => Sys2Proof.Machine.execPread a s
  | .ctrlw a => Sys2Proof.Machine.execCtrlw a s
  | .statr a => Sys2Proof.Machine.execStatr a s
  | .reservedE a => Sys2Proof.Machine.execReservedE a s
  | .reset a => Sys2Proof.Machine.execReset a s
  | .rxb b => Sys2Proof.Machine.execRxb b s
  | .rxeof b => Sys2Proof.Machine.execRxeof b s

end Sys2Proof.Machine
end

