-- ==== Sys2Proof/WellFormed.lean ====
section
/-! DEFINITION. Which terms of Instr an encoding can carry. -/

namespace Sys2Proof

/-- The count field `n` has 8 bits, so a request carries at most 255 data bytes (30_encoding.md R80). -/
def Args.wf (a : Args) : Bool := a.data.length ≤ 255

/-- A command is well-formed when its data fits the count field; an RX event always is. -/
def Instr.wf (i : Instr) : Bool :=
  match i.args? with
  | some a => a.wf
  | none => true

end Sys2Proof
end

