-- ==== Sys2Proof/Decode.lean ====
section
/-! DEFINITION. The decoder of the two input ports, and after it the encoder (30_encoding.md R80, R82, R83, R86). -/

namespace Sys2Proof

/-- Four bytes of the command stream as a header word: bits 31:24 come first (R80). -/
def joinBytes (b3 b2 b1 b0 : Byte) : Word := b3 ++ b2 ++ b1 ++ b0

/-- The operation of each select code (R82), by bits 31, 30, 29 and 28 of the header as the table's patterns write
them. -/
def instrOfSel (sel : BitVec 4) (a : Args) : Instr :=
  match sel.getLsbD 3, sel.getLsbD 2, sel.getLsbD 1, sel.getLsbD 0 with
  | false, false, false, false => .nop a
  | false, false, false, true => .venc a
  | false, false, true, false => .vdec a
  | false, false, true, true => .chkv a
  | false, true, false, false => .fin a
  | false, true, false, true => .build a
  | false, true, true, false => .parse a
  | false, true, true, true => .reserved7 a
  | true, false, false, false => .start a
  | true, false, false, true => .stop a
  | true, false, true, false => .pclr a
  | true, false, true, true => .pread a
  | true, true, false, false => .ctrlw a
  | true, true, false, true => .statr a
  | true, true, true, false => .reservedE a
  | true, true, true, true => .reset a

/-- Header bits 31:28 (R80). -/
def headerSel (w : Word) : BitVec 4 := w.extractLsb' 28 4

/-- Header bits 27:25, which must be `000` (R80). -/
def headerReserved (w : Word) : BitVec 3 := w.extractLsb' 25 3

/-- Header bits 7:0: how many data bytes follow (R80). -/
def headerCount (w : Word) : Nat := (w.extractLsb' 0 8).toNat

/-- The operands of a request with header `w` and data bytes `data` (R80). -/
def headerArgs (w : Word) (data : List Byte) : Args :=
  { f := w.getLsbD 24, a1 := w.extractLsb' 16 8, a0 := w.extractLsb' 8 8, data := data }

/-- What the decoder makes of the bytes at the command port. -/
inductive Decoded where
  /-- A whole request: its operation, and the bytes after it. -/
  | instr (i : Instr) (rest : List Byte)
  /-- A whole request whose header bits 27:25 are not `000` (R83), and the bytes after it. -/
  | reservedBits (rest : List Byte)
  /-- The request has not arrived whole: fewer than four header bytes, or fewer data bytes than its count. -/
  | incomplete
  deriving DecidableEq, Repr

/-- Decodes the request at the head of the command stream. `n` is always honoured as the count of data bytes, also by
operations that use none and by illegal requests (R80, R83); the reserved bits are tested before `sel` (R83, R198). -/
def decodeRequest : List Byte → Decoded
  | b3 :: b2 :: b1 :: b0 :: more =>
    let w := joinBytes b3 b2 b1 b0
    let n := headerCount w
    if more.length < n then .incomplete
    else if headerReserved w ≠ 0#3 then .reservedBits (more.drop n)
    else .instr (instrOfSel (headerSel w) (headerArgs w (more.take n))) (more.drop n)
  | _ => .incomplete

/-- Decodes an RX symbol: bit 8 is `eof`, bits 7:0 the byte (R86). -/
def decodeSymbol (s : Symbol) : Instr :=
  if s.getLsbD 8 then .rxeof (s.extractLsb' 0 8) else .rxb (s.extractLsb' 0 8)

/-- What stands at one of the two input ports. -/
inductive PortWord where
  /-- Bytes of the command request stream. -/
  | request (bytes : List Byte)
  /-- One RX symbol. -/
  | symbol (s : Symbol)
  deriving DecidableEq, Repr

/-- The decoder, over both ports. -/
def decode : PortWord → Decoded
  | .request bytes => decodeRequest bytes
  | .symbol s => .instr (decodeSymbol s) []

/-- The four bytes of a request header as they travel, bits 31:24 first (R80). -/
def wordBytes (w : Word) : List Byte :=
  [w.extractLsb' 24 8, w.extractLsb' 16 8, w.extractLsb' 8 8, w.extractLsb' 0 8]

/-- The request header of R80 for a select code and operands. -/
def requestHeader (sel : BitVec 4) (a : Args) : Word :=
  sel ++ 0#3 ++ BitVec.ofBool a.f ++ a.a1 ++ a.a0 ++ BitVec.ofNat 8 a.data.length

/-- A request as it travels: the header, then the data bytes in index order (R80). -/
def requestBytes (sel : BitVec 4) (a : Args) : List Byte :=
  wordBytes (requestHeader sel a) ++ a.data

/-- The encoder, from the table of select codes (R82) and the RX symbol (R86). -/
def encode : Instr → PortWord
  | .nop a => .request (requestBytes 0x0#4 a)
  | .venc a => .request (requestBytes 0x1#4 a)
  | .vdec a => .request (requestBytes 0x2#4 a)
  | .chkv a => .request (requestBytes 0x3#4 a)
  | .fin a => .request (requestBytes 0x4#4 a)
  | .build a => .request (requestBytes 0x5#4 a)
  | .parse a => .request (requestBytes 0x6#4 a)
  | .reserved7 a => .request (requestBytes 0x7#4 a)
  | .start a => .request (requestBytes 0x8#4 a)
  | .stop a => .request (requestBytes 0x9#4 a)
  | .pclr a => .request (requestBytes 0xA#4 a)
  | .pread a => .request (requestBytes 0xB#4 a)
  | .ctrlw a => .request (requestBytes 0xC#4 a)
  | .statr a => .request (requestBytes 0xD#4 a)
  | .reservedE a => .request (requestBytes 0xE#4 a)
  | .reset a => .request (requestBytes 0xF#4 a)
  | .rxb b => .symbol (0#1 ++ b)
  | .rxeof b => .symbol (1#1 ++ b)

/-- A table row's bits as they stand at the command port: the header word is bits 31:0, and data byte `j`, of which
there are as many as the header counts, is bits `39 + 8 j : 32 + 8 j` (zero where the table gives no bits). -/
def tableRequest (w : Nat) : List Byte :=
  let h := BitVec.ofNat 32 w
  wordBytes h ++ (List.range (headerCount h)).map fun j => BitVec.ofNat 8 (w >>> (32 + 8 * j))

/-- The instruction the decoder reads from an instruction whose bits are `w`, numbered as spec/opcode_table.json numbers
them. An RX symbol has 9 bits, 16 in whole bytes; a command header has 32. -/
def decodeTableWord (nbits w : Nat) : Option Instr :=
  if nbits ≤ 16 then
    if w < 2 ^ 9 then some (decodeSymbol (BitVec.ofNat 9 w)) else none
  else
    match decodeRequest (tableRequest w) with
    | .instr i _ => some i
    | .reservedBits _ => none
    | .incomplete => none

end Sys2Proof
end

