-- ==== Sys2Proof/Machine/Fetch.lean ====
section
/-! DEFINITION. What the agent whose turn it is finds at its port (20_memory.md R58, 30_encoding.md R80, R83, R86), and
how a table row's bits come to stand there. -/

namespace Sys2Proof.Machine

/-- What a turn comes to. -/
inductive Fetched where
  /-- The agent runs `i`, from the state in which the turn is spent and the request or symbol is consumed. -/
  | run (i : Instr) (s : State)
  /-- A whole request with reserved header bits set; the turn is spent and the request consumed (R83). -/
  | illegal (s : State)
  /-- The agent has no step: nothing has arrived whole, or the receiver is stopped. Only the turn is spent. -/
  | idle (s : State)
  deriving DecidableEq, Repr

/-- The foreground agent takes one whole request from the command stream. A request of which some bytes have not arrived
stays at the port (log entry 10). -/
def fetchRequest (s : State) : Fetched :=
  match decodeRequest s.cmdIn with
  | .instr i rest => .run i (s.setCmdIn rest)
  | .reservedBits rest => .illegal (s.setCmdIn rest)
  | .incomplete => .idle s

/-- The receiver agent takes one symbol, only while `RUN = 1`; while `RUN = 0` the symbol stays with the transport
(R28, R86, R152). -/
def fetchSymbol (s : State) : Fetched :=
  if s.run then
    match s.rxIn with
    | [] => .idle s
    | sym :: rest => .run (decodeSymbol sym) (s.setRxIn rest)
  else .idle s

/-- The next turn (log entry 3). With no turn left the block does nothing. -/
def fetch (s : State) : Fetched :=
  match s.sched with
  | [] => .idle s
  | .foreground :: turns => fetchRequest (s.setSched turns)
  | .receiver :: turns => fetchSymbol (s.setSched turns)

/-- A table row's bits placed so that the next turn runs exactly that instruction (log entry 12): an RX symbol at the head
of the RX stream, with the receiver running, or a request at the head of the command stream; and the turn that takes it. -/
def placeTableWord (s : State) (nbits w : Nat) : State :=
  if nbits ≤ 16 then
    ((s.setRxIn (BitVec.ofNat 9 w :: s.rxIn)).setSched (.receiver :: s.sched)).setRun true
  else
    (s.setCmdIn (tableRequest w ++ s.cmdIn)).setSched (.foreground :: s.sched)

end Sys2Proof.Machine
end

