-- ==== Sys2Proof/Machine/Step.lean ====
section
/-! DEFINITION. One step of the block: one turn of one agent, atomic (00_scope.md R12, 20_memory.md R58). -/

namespace Sys2Proof.Machine

/-- One step: the agent whose turn it is runs what it finds at its port. A request with reserved header bits set is
answered with `IllegalCommand(2)` before its select code is looked at (30_encoding.md R83, 60_exceptions.md R198). -/
def step (s : State) : Host.Outcome State Fault Refusal :=
  match fetch s with
  | .run i s' => exec i s'
  | .illegal s' => raise (.illegalCommand .reservedBits) s'
  | .idle s' => .next s'

/-- `s` with the instruction whose table bits are `w` standing where `step` fetches its next instruction. -/
def State.withFetchWord (s : State) (nbits w : Nat) : State := placeTableWord s nbits w

end Sys2Proof.Machine
end

