-- ==== Sys2Proof/Safety.lean ====
section
/-! DEFINITION. What the spec says of every reachable state (10_state.md R33, R34), what a safe step is, and the words the
statements use: complete accumulations, well-formed frames (30_encoding.md R75), select codes (R82). -/

namespace Sys2Proof.Machine

/-! ### Frames -/

/-- The completion test of R152 on the accumulated bytes, the new byte included. -/
def Complete (p : Params) (fr : List Byte) : Prop :=
  3 < fr.length ∧ fr.length ≤ 255 ∧ (byteAt fr (lengthOffset p (byteAt fr 1))).toNat = fr.length

/-- `FINALISED(s)` (R75). -/
def Finalised (p : Params) (s : List Byte) : Prop :=
  4 ≤ s.length ∧ s.length ≤ 255 ∧
  (byteAt s (lengthOffset p (byteAt s 1))).toNat = s.length ∧ xorFold s = 0#8

/-- No byte after the first equals `MARKER`. -/
def NoMarkerAfterFirst (s : List Byte) : Prop :=
  ∀ i < s.length, 1 ≤ i → byteAt s i ≠ Config.marker

/-- `MARKERFREE(s)` (R75). -/
def MarkerFree (s : List Byte) : Prop := byteAt s 0 = Config.marker ∧ NoMarkerAfterFirst s

/-- `WF(s)` (R75). -/
def WellFormedFrame (p : Params) (s : List Byte) : Prop := Finalised p s ∧ MarkerFree s

/-! ### The invariant -/

/-- How many bytes of `RXBUF` are in use: `min(RXLEN, 255)` (R22). -/
def rxCount (s : State) : Nat := min s.rxlen.val Config.rxCap

/-- Every byte of the accumulation holds a value (R22, R33). -/
def RxHeld (s : State) : Prop := ∀ i < rxCount s, (s.rxbuf.read i).isSome = true

/-- A marker lands at index 0 only (R34 (b)). -/
def RxMarkerFree (s : State) : Prop := ∀ i < rxCount s, 1 ≤ i → s.rxbuf.read i ≠ some Config.marker

/-- Every byte of the mailbox's frame holds a value (R24, R33). -/
def PendHeld (s : State) : Prop := ∀ i < s.pendlen.val, (s.pendbuf.read i).isSome = true

/-- What R34 (d) says of the frame in the mailbox. -/
def MailFrame (p : Params) (fr : List Byte) : Prop :=
  4 ≤ fr.length ∧ fr.length ≤ 254 ∧ byteAt fr 1 ≠ p.ackOpcode ∧
  (byteAt fr (lengthOffset p (byteAt fr 1))).toNat = fr.length ∧ NoMarkerAfterFirst fr

/-- The invariant of the block. The bounds R34 (a) are the types of `RXLEN` and `PENDLEN`. -/
structure Inv (s : State) : Prop where
  /-- `RXBUF` is in canonical form. -/
  rxWf : s.rxbuf.wf
  /-- `PENDBUF` is in canonical form. -/
  pendWf : s.pendbuf.wf
  /-- R33, for `RXBUF`. -/
  rxHeld : RxHeld s
  /-- R34 (b). -/
  rxMarkerFree : RxMarkerFree s
  /-- R33 and R34 (d), for the mailbox. -/
  mail : s.pendv = true → ∃ fr, s.pendbuf.readBytes 0 s.pendlen.val = some fr ∧ MailFrame s.cfg fr
  /-- R34 (e). -/
  closedStopped : s.tclosed = true → s.run = false
  /-- R88, R159: every frame the observer saw has 4 to 254 bytes. -/
  obsSizes : ∀ fr ∈ s.obsOut, 4 ≤ fr.length ∧ fr.length ≤ 254
  /-- R81: the one-byte field `m` holds the number of data bytes of every response. -/
  rspSizes : ∀ r ∈ s.rspOut, (responseData r).length ≤ 255

/-- A step that goes on: no fault and no refusal. -/
def GoesOn (o : Host.Outcome State Fault Refusal) : Prop := ∃ t, o = .next t

/-! ### Words of the statements -/

/-- The select code of a command (R82). -/
def selectCode : Instr → Option Nat
  | .nop _ => some 0x0
  | .venc _ => some 0x1
  | .vdec _ => some 0x2
  | .chkv _ => some 0x3
  | .fin _ => some 0x4
  | .build _ => some 0x5
  | .parse _ => some 0x6
  | .reserved7 _ => some 0x7
  | .start _ => some 0x8
  | .stop _ => some 0x9
  | .pclr _ => some 0xA
  | .pread _ => some 0xB
  | .ctrlw _ => some 0xC
  | .statr _ => some 0xD
  | .reservedE _ => some 0xE
  | .reset _ => some 0xF
  | .rxb _ => none
  | .rxeof _ => none

/-- The operations R221 calls pure. -/
def isPure : Instr → Bool
  | .nop _ | .venc _ | .vdec _ | .chkv _ | .fin _ | .build _ | .parse _ => true
  | .reserved7 _ | .start _ | .stop _ | .pclr _ | .pread _ | .ctrlw _ | .statr _ | .reservedE _ | .reset _
  | .rxb _ | .rxeof _ => false

/-- The offset at which `RXB` stores its byte, as its meaning computes it: `RXLEN` after the sentinel test. Offset 255 or
256 means that nothing is stored. -/
def rxStoreOffset (s : State) (b : Byte) : Nat := (detectMarker b s).rxlen.val

/-- The pseudo-operation `CHKON` (30_encoding.md R90): `CTRLW 0x02`. -/
def chkOn : Instr := .ctrlw { f := false, a1 := 0x00#8, a0 := 0x02#8, data := [] }

/-- The pseudo-operation `CHKOFF` (R90): `CTRLW 0x00`. -/
def chkOff : Instr := .ctrlw { f := false, a1 := 0x00#8, a0 := 0x00#8, data := [] }

/-- The pseudo-operation `RX [...]` (R90): one `RXB` per byte, in order. -/
def rxRun (bytes : List Byte) : List Instr := bytes.map .rxb

/-- The RX symbols of a run of received bytes: `RX [...]` of R90 as it stands at the port. -/
def rxSymbols (bytes : List Byte) : List Symbol := bytes.map fun b => 0#1 ++ b

end Sys2Proof.Machine
end

