-- ==== Sys2Proof/Certificates/Slice0/Obligations.lean ====
section
/-! DEFINITION. The statements for the provers, from the numbered rules of spec/. -/

open Sys2Proof Sys2Proof.Machine

/-! ### Encodings -/

/-- The header words of 95_test_vectors.md V5 and the symbols below it, as bytes at the ports, decode to the operations
they stand for. -/
def Obligations.SpecWordsDecodeToTheirOperations : Prop :=
  decodeRequest [0x10#8, 0xF8#8, 0xF8#8, 0x00#8] = .instr (.venc ⟨false, 0xF8#8, 0xF8#8, []⟩) [] ∧
  decodeRequest [0x51#8, 0x99#8, 0x74#8, 0x02#8, 0xC8#8, 0x64#8, 0xD0#8] =
    .instr (.build ⟨true, 0x99#8, 0x74#8, [0xC8#8, 0x64#8]⟩) [0xD0#8] ∧
  decodeRequest [0x60#8, 0x00#8, 0x00#8, 0x03#8, 0xFF#8, 0x74#8, 0x03#8] =
    .instr (.parse ⟨false, 0x00#8, 0x00#8, [0xFF#8, 0x74#8, 0x03#8]⟩) [] ∧
  decodeRequest [0x80#8, 0x00#8, 0x00#8, 0x00#8] = .instr (.start ⟨false, 0x00#8, 0x00#8, []⟩) [] ∧
  decodeRequest [0xC0#8, 0x00#8, 0x02#8, 0x00#8] = .instr (.ctrlw ⟨false, 0x00#8, 0x02#8, []⟩) [] ∧
  decodeRequest [0xE0#8, 0x00#8, 0x00#8, 0x02#8, 0xAA#8, 0xBB#8] =
    .instr (.reservedE ⟨false, 0x00#8, 0x00#8, [0xAA#8, 0xBB#8]⟩) [] ∧
  decodeRequest [0x78#8, 0x00#8, 0x00#8, 0x00#8] = .reservedBits [] ∧
  decodeSymbol 0x074#9 = .rxb 0x74#8 ∧ decodeSymbol 0x0FF#9 = .rxb 0xFF#8 ∧ decodeSymbol 0x100#9 = .rxeof 0x00#8

/-- Decoding the encoding of any well-formed instruction gives it back, with every operand at every value; at the command
port also when other bytes follow. -/
def Obligations.EveryInstructionDecodesFromItsEncoding : Prop :=
  ∀ i : Instr, i.wf = true →
    decode (encode i) = .instr i [] ∧
    ∀ bytes, encode i = .request bytes → ∀ rest, decodeRequest (bytes ++ rest) = .instr i rest

/-- What the decoder accepts is exactly the encoding of what it answers: no two encodings of one instruction, no bit of a
request or symbol dropped, and nothing ill-formed. -/
def Obligations.AcceptedBytesAreTheEncodingOfTheInstruction : Prop :=
  (∀ bytes i rest, decodeRequest bytes = .instr i rest →
    i.wf = true ∧ ∃ enc, encode i = .request enc ∧ bytes = enc ++ rest) ∧
  (∀ sym : Symbol, (decodeSymbol sym).wf = true ∧ encode (decodeSymbol sym) = .symbol sym)

/-- R80, on the port's bytes: the fields by their places in the header, the data bytes counted by `n` whatever the
operation, and a request that has not arrived whole is none. -/
def Obligations.RequestFieldsStandWhereTheHeaderSays : Prop :=
  (∀ (b3 b2 b1 b0 : Byte) (data more : List Byte), data.length = b0.toNat →
    (b3.toNat / 2 % 8 = 0 →
      ∃ i, decodeRequest (b3 :: b2 :: b1 :: b0 :: (data ++ more)) = .instr i more ∧
        selectCode i = some (b3.toNat / 16) ∧
        i.args? = some { f := decide (b3.toNat % 2 = 1), a1 := b2, a0 := b1, data := data }) ∧
    (b3.toNat / 2 % 8 ≠ 0 →
      decodeRequest (b3 :: b2 :: b1 :: b0 :: (data ++ more)) = .reservedBits more)) ∧
  (∀ (b3 b2 b1 b0 : Byte) (more : List Byte), more.length < b0.toNat →
    decodeRequest (b3 :: b2 :: b1 :: b0 :: more) = .incomplete) ∧
  (∀ bytes : List Byte, bytes.length < 4 → decodeRequest bytes = .incomplete)

/-- A field an operation does not use is ignored (R80, R85, U23). -/
def Obligations.FieldsAnOperationDoesNotUseAreIgnored : Prop :=
  ∀ (s : State) (a a' : Args),
    (∀ op ∈ [Instr.nop, Instr.reserved7, Instr.start, Instr.stop, Instr.pclr, Instr.pread, Instr.statr, Instr.reservedE,
        Instr.reset], exec (op a) s = exec (op a') s) ∧
    (a.a1 = a'.a1 → a.a0 = a'.a0 → exec (.venc a) s = exec (.venc a') s ∧ exec (.vdec a) s = exec (.vdec a') s) ∧
    (a.data = a'.data → exec (.chkv a) s = exec (.chkv a') s ∧ exec (.fin a) s = exec (.fin a') s) ∧
    (a.a0 = a'.a0 → a.data = a'.data → exec (.build a) s = exec (.build a') s) ∧
    (a.f = a'.f → (a.f = true → a.a0 = a'.a0) → a.data = a'.data → exec (.parse a) s = exec (.parse a') s) ∧
    (a.a0 = a'.a0 → exec (.ctrlw a) s = exec (.ctrlw a') s) ∧
    (∀ b b' : Byte, exec (.rxeof b) s = exec (.rxeof b') s)

/-- From R86: `eof = 0` is `RXB(b)`, `eof = 1` is `RXEOF` and `b` is ignored; the port consumes a symbol only while
`RUN = 1`. That the stopped receiver's turn is spent is the model's choice (log entry 3). -/
def Obligations.RxSymbolsAreByteOrEndOfStream : Prop :=
  (∀ b : Byte, decodeSymbol (0#1 ++ b) = .rxb b ∧ ∃ b', decodeSymbol (1#1 ++ b) = .rxeof b') ∧
  (∀ (b b' : Byte) (s : State), exec (.rxeof b) s = exec (.rxeof b') s) ∧
  (∀ (s : State) (turns : List Agent), s.sched = .receiver :: turns → s.run = false →
    step s = .next { s with sched := turns })

/-- From R81 and R190: the fields of a response header by their weights, the codes, and that no response carries code 2
(`Timeout`), 3 (`TransportClosed`) or 7 and above. That the header's bytes travel bits 31:24 first is the model's choice
(log entry 15). -/
def Obligations.ResponseHeaderFieldsAndErrorCodes : Prop :=
  (∀ (r1 r0 : Byte) (data : List Byte), data.length ≤ 255 →
    (responseHeader (.ok r1 r0 data)).toNat = r1.toNat * 2 ^ 16 + r0.toNat * 2 ^ 8 + data.length ∧
    responseBytes (.ok r1 r0 data) = [0#8, r1, r0, BitVec.ofNat 8 data.length] ++ data) ∧
  (∀ e : CmdError,
    ∃ err cause : Nat, (responseHeader (.error e)).toNat = err * 2 ^ 28 + cause * 2 ^ 24 ∧
      responseBytes (.error e) = [BitVec.ofNat 8 (err * 16 + cause), 0#8, 0#8, 0#8] ∧
      (err, cause) ∈ [(1, 1), (1, 2), (1, 3), (1, 4), (4, 1), (4, 2), (5, 1), (6, 1), (6, 2)] ∧
      (e = .malformedFrame .tooShort ↔ (err, cause) = (1, 1)) ∧
      (e = .malformedFrame .opcodeMismatch ↔ (err, cause) = (1, 2)) ∧
      (e = .malformedFrame .lenMismatch ↔ (err, cause) = (1, 3)) ∧
      (e = .malformedFrame .checksum ↔ (err, cause) = (1, 4)) ∧
      (e = .buildReject .short ↔ (err, cause) = (4, 1)) ∧
      (e = .buildReject .long ↔ (err, cause) = (4, 2)) ∧
      (e = .rangeError ↔ (err, cause) = (5, 1)) ∧
      (e = .illegalCommand .reservedSelect ↔ (err, cause) = (6, 1)) ∧
      (e = .illegalCommand .reservedBits ↔ (err, cause) = (6, 2)))

/-! ### Steps -/

/-- A step runs the instruction that its agent's port decodes to, from the state in which the turn is spent and the request
or symbol consumed; nothing else is around it. -/
def Obligations.StepRunsTheDecodedInstruction : Prop :=
  (∀ (s : State) (turns : List Agent) (i : Instr) (rest : List Byte),
    s.sched = .foreground :: turns → decodeRequest s.cmdIn = .instr i rest →
    step s = exec i { s with sched := turns, cmdIn := rest }) ∧
  (∀ (s : State) (turns : List Agent) (sym : Symbol) (rest : List Symbol),
    s.sched = .receiver :: turns → s.run = true → s.rxIn = sym :: rest →
    step s = exec (decodeSymbol sym) { s with sched := turns, rxIn := rest })

/-- The model's choice (log entries 3 and 10): a turn whose agent has no step changes nothing but the turn, and with no
turn left the state stays. -/
def Obligations.TurnWithNothingToDoOnlyPasses : Prop :=
  (∀ s : State, s.sched = [] → step s = .next s) ∧
  (∀ (s : State) (turns : List Agent), s.sched = .foreground :: turns → decodeRequest s.cmdIn = .incomplete →
    step s = .next { s with sched := turns }) ∧
  (∀ (s : State) (turns : List Agent), s.sched = .receiver :: turns → s.run = false ∨ s.rxIn = [] →
    step s = .next { s with sched := turns })

/-- From R176 and R83: select codes `0x7` and `0xE` answer `IllegalCommand(1)` and change no state; reserved header bits
that are not zero answer `IllegalCommand(2)` before the select code is looked at. On the port's bytes, with the data bytes
consumed. That a turn is spent is the model's choice (log entry 3), and that the request with reserved bits is answered when
its data bytes have arrived is inferred (log entry 11). -/
def Obligations.ReservedCommandsAnswerIllegalCommand : Prop :=
  ∀ (s : State) (turns : List Agent) (b3 b2 b1 b0 : Byte) (data more : List Byte),
    s.sched = .foreground :: turns → s.cmdIn = b3 :: b2 :: b1 :: b0 :: (data ++ more) → data.length = b0.toNat →
    (b3.toNat / 2 % 8 ≠ 0 →
      step s = .next { s with
        sched := turns, cmdIn := more
        rspOut := s.rspOut ++ [.error (.illegalCommand .reservedBits)] }) ∧
    (b3.toNat / 2 % 8 = 0 → b3.toNat / 16 = 0x7 ∨ b3.toNat / 16 = 0xE →
      step s = .next { s with
        sched := turns, cmdIn := more
        rspOut := s.rspOut ++ [.error (.illegalCommand .reservedSelect)] })

/-- The two reserved select codes as instructions: the error response and nothing else (R176). -/
def Obligations.ReservedSelectCodesRaiseIllegalCommand : Prop :=
  ∀ (s : State) (a : Args),
    selectCode (.reserved7 a) = some 0x7 ∧ selectCode (.reservedE a) = some 0xE ∧
    exec (.reserved7 a) s = .next { s with rspOut := s.rspOut ++ [.error (.illegalCommand .reservedSelect)] } ∧
    exec (.reservedE a) s = .next { s with rspOut := s.rspOut ++ [.error (.illegalCommand .reservedSelect)] }

/-- R62: a step takes from the head of an input stream only, in order, at most one symbol, and only the agent whose turn it
is takes anything; outputs are only ever added to, at most one of each, and never both. -/
def Obligations.StepTakesFromTheHeadOfOneStream : Prop :=
  ∀ s t : State, step s = .next t →
    (∃ taken, s.cmdIn = taken ++ t.cmdIn) ∧
    (∃ taken, s.rxIn = taken ++ t.rxIn ∧ taken.length ≤ 1) ∧
    t.sched = s.sched.tail ∧
    (s.sched.head? ≠ some .foreground → t.cmdIn = s.cmdIn ∧ t.rspOut = s.rspOut) ∧
    (s.sched.head? ≠ some .receiver → t.rxIn = s.rxIn ∧ t.obsOut = s.obsOut) ∧
    (∃ added, t.rspOut = s.rspOut ++ added ∧ added.length ≤ 1) ∧
    (∃ added, t.obsOut = s.obsOut ++ added ∧ added.length ≤ 1)

/-! ### Reset, control and status, mailbox -/

/-- From R32 and R174: after `RESET`, and at power-on, the five elements of the table with a value have it, no buffer byte holds
a value and the CSR reads `0x02`; the parameters are not affected, and the response is `OK`. `PENDLEN` holds nothing: the
model's field has a number (log entry 6), and the statement says that no `PREAD` tells one number from another. That `RESET` keeps the ports and the turns is the model's
choice (log entry 5). -/
def Obligations.ResetAndPowerOnGiveTheResetState : Prop :=
  (let t := State.reset
   t.rxlen.val = 0 ∧ t.pendv = false ∧ t.tclosed = false ∧ t.run = false ∧ t.chken = true ∧
   (∀ off, t.rxbuf.read off = none) ∧ (∀ off, t.pendbuf.read off = none) ∧ csr t = 0x02#8 ∧
   ∀ (len : Fin 256) (b : Args),
    exec (.pread b) { t with pendlen := len } = .next { t with pendlen := len, rspOut := t.rspOut ++ [.ok 0#8 0#8 []] }) ∧
  (∀ (s : State) (a : Args), selectCode (.reset a) = some 0xF ∧
    ∃ t, exec (.reset a) s = .next t ∧
      t.rxlen.val = 0 ∧ t.pendv = false ∧ t.tclosed = false ∧ t.run = false ∧ t.chken = true ∧
      (∀ off, t.rxbuf.read off = none) ∧ (∀ off, t.pendbuf.read off = none) ∧ csr t = 0x02#8 ∧
      (∀ (len : Fin 256) (b : Args), exec (.pread b) { t with pendlen := len } =
        .next { t with pendlen := len, rspOut := t.rspOut ++ [.ok 0#8 0#8 []] }) ∧
      t.cfg = s.cfg ∧ t.rspOut = s.rspOut ++ [.ok 0#8 0#8 []] ∧ t.obsOut = s.obsOut ∧
      t.cmdIn = s.cmdIn ∧ t.rxIn = s.rxIn ∧ t.sched = s.sched)

/-- R175. -/
def Obligations.NopAnswersZerosAndChangesNothing : Prop :=
  ∀ (s : State) (a : Args), selectCode (.nop a) = some 0x0 ∧
    exec (.nop a) s = .next { s with rspOut := s.rspOut ++ [.ok 0#8 0#8 []] }

/-- From R155, in every state, running or not. That the bytes of `RXBUF`, which mean nothing after it, stay as they were is
the model's reading (log entry 8). -/
def Obligations.StartRunsTheReceiverFromAnEmptyBuffer : Prop :=
  ∀ (s : State) (a : Args), selectCode (.start a) = some 0x8 ∧
    exec (.start a) s = .next { s with
      rxlen := 0, tclosed := false, run := true
      rspOut := s.rspOut ++ [.ok 0#8 0#8 []] }

/-- R156. -/
def Obligations.StopOnlyClearsRun : Prop :=
  ∀ (s : State) (a : Args), selectCode (.stop a) = some 0x9 ∧
    exec (.stop a) s = .next { s with run := false, rspOut := s.rspOut ++ [.ok 0#8 0#8 []] }

/-- R170, with its example: a following `PREAD` finds the mailbox empty. -/
def Obligations.PclrOnlyClearsPendv : Prop :=
  ∀ (s : State) (a : Args), selectCode (.pclr a) = some 0xA ∧
    ∃ t, exec (.pclr a) s = .next t ∧
      t = { s with pendv := false, rspOut := s.rspOut ++ [.ok 0#8 0#8 []] } ∧
      pendValid t = false ∧
      ∀ a', exec (.pread a') t = .next { t with rspOut := t.rspOut ++ [.ok 0#8 0#8 []] }

/-- R171: an empty mailbox answers `r1 = 0` and no data; a populated one answers `r1 = 1` and the `PENDLEN` bytes of
`PENDBUF`; nothing else changes, and a second `PREAD` answers the same. -/
def Obligations.PreadAnswersTheMailboxAndKeepsIt : Prop :=
  ∀ (s : State) (a : Args), selectCode (.pread a) = some 0xB ∧
    (s.pendv = false → exec (.pread a) s = .next { s with rspOut := s.rspOut ++ [.ok 0#8 0#8 []] }) ∧
    (s.pendv = true → PendHeld s →
      ∃ fr, fr.length = s.pendlen.val ∧ (∀ i < s.pendlen.val, s.pendbuf.read i = fr[i]?) ∧
        ∃ t, exec (.pread a) s = .next t ∧ t = { s with rspOut := s.rspOut ++ [.ok 1#8 0#8 fr] } ∧
          ∀ a', exec (.pread a') t = .next { t with rspOut := t.rspOut ++ [.ok 1#8 0#8 fr] })

/-- R172: bit 1 of `a0` and no other. -/
def Obligations.CtrlwWritesOnlyChken : Prop :=
  ∀ (s : State) (a : Args), selectCode (.ctrlw a) = some 0xC ∧
    exec (.ctrlw a) s = .next { s with
      chken := decide (a.a0.toNat / 2 % 2 = 1)
      rspOut := s.rspOut ++ [.ok 0#8 0#8 []] }

/-- R173: the four flags at their places, bits 7:4 zero, `r1 = 0`; no state changes. -/
def Obligations.StatrReadsTheFlagsAtTheirBits : Prop :=
  ∀ (s : State) (a : Args), selectCode (.statr a) = some 0xD ∧
    ∃ v : Byte,
      v.toNat = s.run.toNat + 2 * s.chken.toNat + 4 * s.pendv.toNat + 8 * s.tclosed.toNat ∧
      exec (.statr a) s = .next { s with rspOut := s.rspOut ++ [.ok 0#8 v []] }

/-! ### The value codec -/

/-- R106 with R101, R102, R104 in their arithmetic reading: `v = sext_16(a1 : a0)`; in range, the two bytes by floor
division; outside it, `RangeError(1)` and no bytes. -/
def Obligations.VencAnswersTheEncodedValueOrRangeError : Prop :=
  ∀ (s : State) (a : Args) (v : Int),
    v = (a.a1.toNat * 256 + a.a0.toNat : Int) - (if a.a1.toNat ≥ 128 then 65536 else 0) →
    selectCode (.venc a) = some 0x1 ∧
    (s.cfg.vxform = .perByte →
      (-8192 ≤ v → v ≤ 8191 → ∃ b0 b1 : Byte,
        (b0.toNat : Int) = 2 * v % 256 ∧ (b1.toNat : Int) = 2 * (v / 128 % 128) ∧
        exec (.venc a) s = .next { s with rspOut := s.rspOut ++ [.ok b1 b0 []] }) ∧
      (v < -8192 ∨ 8191 < v →
        exec (.venc a) s = .next { s with rspOut := s.rspOut ++ [.error .rangeError] })) ∧
    (s.cfg.vxform = .whole →
      (-16384 ≤ v → v ≤ 16383 → ∃ b0 b1 : Byte,
        (b0.toNat : Int) = 2 * v % 256 ∧ (b1.toNat : Int) = v / 128 % 256 ∧
        exec (.venc a) s = .next { s with rspOut := s.rspOut ++ [.ok b1 b0 []] }) ∧
      (v < -16384 ∨ 16383 < v →
        exec (.venc a) s = .next { s with rspOut := s.rspOut ++ [.error .rangeError] }))

/-- R107 with R103, R105 in their arithmetic reading: any two bytes decode; `r1 : r0` is the value modulo `2^16`. -/
def Obligations.VdecAnswersTheDecodedValue : Prop :=
  ∀ (s : State) (a : Args), selectCode (.vdec a) = some 0x2 ∧
    ∃ (r1 r0 : Byte) (v : Int),
      (r1.toNat * 256 + r0.toNat : Int) = v % 65536 ∧
      (s.cfg.vxform = .perByte →
        v = (a.a1.toNat / 2 * 128 + a.a0.toNat / 2 : Int) - (if a.a1.toNat ≥ 128 then 16384 else 0)) ∧
      (s.cfg.vxform = .whole →
        v = ((a.a1.toNat * 256 + a.a0.toNat : Int) - (if a.a1.toNat ≥ 128 then 65536 else 0)) / 2) ∧
      exec (.vdec a) s = .next { s with rspOut := s.rspOut ++ [.ok r1 r0 []] }

/-- R108, (a) to (f): the canonical transform round-trips on its range, its bytes are even for every 16-bit value and so
never the marker, it is injective, it fails outside its range, and its decoder drops bit 0 of each byte. -/
def Obligations.PerByteTransformRoundTripsAndAvoidsTheMarker : Prop :=
  (∀ v : Int, -8192 ≤ v → v ≤ 8191 → decP (encP v).1 (encP v).2 = v) ∧
  (∀ v : Int, -32768 ≤ v → v ≤ 32767 →
    (encP v).1.toNat % 2 = 0 ∧ (encP v).2.toNat % 2 = 0 ∧ (encP v).1 ≠ Config.marker ∧ (encP v).2 ≠ Config.marker) ∧
  (∀ v w : Int, -8192 ≤ v → v ≤ 8191 → -8192 ≤ w → w ≤ 8191 → encP v = encP w → v = w) ∧
  (encP 8192 = encP (-8192) ∧ encP (-8193) = encP 8191 ∧ encP 16383 = encP (-1)) ∧
  (∀ b0 b1 : Byte, decP b0 b1 = decP (b0 &&& 0xFE#8) (b1 &&& 0xFE#8)) ∧
  (∀ v : Int, -8192 ≤ v → v ≤ 8191 →
    ((encP v).1.toNat : Int) = 2 * v % 256 ∧ ((encP v).2.toNat : Int) = 2 * (v / 128 % 128)) ∧
  (∀ b0 b1 : Byte, ∃ t : Nat, t = 64 * (b1 &&& 0xFE#8).toNat + b0.toNat / 2 ∧
    decP b0 b1 = (t : Int) - (if t ≥ 8192 then 16384 else 0))

/-- R109: the prose transform round-trips exactly on its range, emits the marker as its second byte exactly on `-128..-1`
of it and on `32640..32767` outside, never as its first byte, and is injective on its range. -/
def Obligations.WholeTransformEmitsTheMarker : Prop :=
  (∀ v : Int, -32768 ≤ v → v ≤ 32767 → (decW (encW v).1 (encW v).2 = v ↔ -16384 ≤ v ∧ v ≤ 16383)) ∧
  decW (encW 16384).1 (encW 16384).2 = -16384 ∧
  (∀ v : Int, -32768 ≤ v → v ≤ 32767 →
    ((encW v).2 = Config.marker ↔ (-128 ≤ v ∧ v ≤ -1) ∨ (32640 ≤ v ∧ v ≤ 32767))) ∧
  (∀ v : Int, (encW v).1 ≠ Config.marker) ∧ encW (-1) = (0xFE#8, 0xFF#8) ∧
  (∀ v w : Int, -16384 ≤ v → v ≤ 16383 → -16384 ≤ w → w ≤ 16383 → encW v = encW w → v = w)

/-! ### The frame codec -/

/-- R120: `r0` is the exclusive-or of all data bytes, in any order, `r1` says whether it is 0; nothing else is looked at
and no state changes. Bit `k` of the fold is the parity of the bytes that have it. -/
def Obligations.ChkvAnswersTheXorOfAllBytes : Prop :=
  ∀ (s : State) (a : Args), selectCode (.chkv a) = some 0x3 ∧
    ∃ x : Byte,
      (∀ k < 8, x.getLsbD k = decide ((a.data.filter fun b => b.getLsbD k).length % 2 = 1)) ∧
      exec (.chkv a) s =
        .next { s with rspOut := s.rspOut ++ [.ok (if x = 0#8 then 1#8 else 0#8) x []] } ∧
      ∀ a' : Args, a.data.Perm a'.data → exec (.chkv a') s = exec (.chkv a) s

/-- From R122, with R125 corrected (log entry 16): fewer than four bytes are rejected; else the output has the length of the input, its length byte is `n` at the
offset that the incoming byte 1 selects, its exclusive-or is 0 and every other byte but the last is the caller's. It is
`FINALISED` (R75) in the normal class; in the short-header class, where byte 1 has become `n`, exactly when `n` is itself in
`SHORT_SET` or the caller's byte at offset 2 happens to be `n`: R125 leaves the second case out, the pseudocode of R122
gives it. -/
def Obligations.FinPatchesLengthAndChecksum : Prop :=
  ∀ (s : State) (a : Args), a.wf = true → selectCode (.fin a) = some 0x4 ∧
    (a.data.length < 4 →
      exec (.fin a) s = .next { s with rspOut := s.rspOut ++ [.error (.buildReject .short)] }) ∧
    (4 ≤ a.data.length → ∃ t : List Byte,
      exec (.fin a) s = .next { s with rspOut := s.rspOut ++ [.ok 0#8 0#8 t] } ∧
      t.length = a.data.length ∧ xorFold t = 0#8 ∧
      (∀ lo, lo = (if byteAt a.data 1 ∈ s.cfg.shortSet then 1 else 2) →
        (byteAt t lo).toNat = a.data.length ∧
        ∀ i < a.data.length, i ≠ lo → i ≠ a.data.length - 1 → byteAt t i = byteAt a.data i) ∧
      (byteAt a.data 1 ∉ s.cfg.shortSet → byteAt t 1 = byteAt a.data 1 ∧ Finalised s.cfg t) ∧
      (byteAt a.data 1 ∈ s.cfg.shortSet → (byteAt t 1).toNat = a.data.length ∧
        (Finalised s.cfg t ↔
          BitVec.ofNat 8 a.data.length ∈ s.cfg.shortSet ∨ (byteAt a.data 2).toNat = a.data.length)))

/-- R123 and R126: a payload of 252 bytes or more is rejected with cause `LONG`; any other gives what `FIN` gives of the
assembled frame, which is never rejected: the marker, the class's two header bytes, the payload, and the checksum that
makes the exclusive-or 0; `a1` and `f` are ignored and any byte is an opcode. -/
def Obligations.BuildAssemblesAndFinalises : Prop :=
  ∀ (s : State) (a : Args), a.wf = true → selectCode (.build a) = some 0x5 ∧
    (252 ≤ a.data.length →
      exec (.build a) s = .next { s with rspOut := s.rspOut ++ [.error (.buildReject .long)] }) ∧
    (a.data.length ≤ 251 → ∃ (h1 h2 c : Byte) (t : List Byte),
      t = [0xFF#8, h1, h2] ++ a.data ++ [c] ∧
      exec (.build a) s = .next { s with rspOut := s.rspOut ++ [.ok 0#8 0#8 t] } ∧
      exec (.fin { f := false, a1 := 0#8, a0 := 0#8, data := [0xFF#8, a.a0, 0#8] ++ a.data ++ [0#8] }) s =
        exec (.build a) s ∧
      xorFold t = 0#8 ∧
      (a.a0 ∉ s.cfg.shortSet → h1 = a.a0 ∧ h2.toNat = a.data.length + 4) ∧
      (a.a0 ∈ s.cfg.shortSet → h1.toNat = a.data.length + 4 ∧ h2 = 0#8))

/-- R124 with the order of R198: `TOO_SHORT`, `LEN_MISMATCH`, `CHECKSUM` (only when `CHKEN = 1`), `OPCODE_MISMATCH` (only
when `f = 1`), each reported only when none before it applies; else the opcode and the payload. No state changes. -/
def Obligations.ParseChecksInOrderThenSplitsTheFrame : Prop :=
  ∀ (s : State) (a : Args), a.wf = true → selectCode (.parse a) = some 0x6 ∧
    (a.data.length < 4 →
      exec (.parse a) s = .next { s with rspOut := s.rspOut ++ [.error (.malformedFrame .tooShort)] }) ∧
    ∀ (d0 op d2 c : Byte) (payload : List Byte) (declared : Byte),
      a.data = [d0, op, d2] ++ payload ++ [c] →
      declared = (if op ∈ s.cfg.shortSet then op else d2) →
      (declared.toNat ≠ a.data.length →
        exec (.parse a) s = .next { s with rspOut := s.rspOut ++ [.error (.malformedFrame .lenMismatch)] }) ∧
      (declared.toNat = a.data.length → s.chken = true → xorFold a.data ≠ 0#8 →
        exec (.parse a) s = .next { s with rspOut := s.rspOut ++ [.error (.malformedFrame .checksum)] }) ∧
      (declared.toNat = a.data.length → s.chken = false ∨ xorFold a.data = 0#8 → a.f = true → op ≠ a.a0 →
        exec (.parse a) s = .next { s with rspOut := s.rspOut ++ [.error (.malformedFrame .opcodeMismatch)] }) ∧
      (declared.toNat = a.data.length → s.chken = false ∨ xorFold a.data = 0#8 → a.f = false ∨ op = a.a0 →
        exec (.parse a) s = .next { s with rspOut := s.rspOut ++ [.ok 0#8 op payload] })

/-- R127: for an opcode of the normal class, `PARSE` of what `BUILD` answered gives opcode and payload back, with and
without an expectation, for either value of `CHKEN`, from any state with the same parameters. -/
def Obligations.ParseGivesBackWhatBuildWasGiven : Prop :=
  ∀ (s s' : State) (a : Args), s'.cfg = s.cfg → a.a0 ∉ s.cfg.shortSet → a.data.length ≤ 251 →
    ∃ fr : List Byte, exec (.build a) s = .next { s with rspOut := s.rspOut ++ [.ok 0#8 0#8 fr] } ∧
      ∀ p : Args, p.data = fr → p.f = false ∨ p.a0 = a.a0 →
        exec (.parse p) s' = .next { s' with rspOut := s'.rspOut ++ [.ok 0#8 a.a0 a.data] }

/-- R128 (a) and (b), the parser's part: a built short-header frame does not hold its opcode, so two opcodes of
`SHORT_SET` give one frame; it parses, to its own length as opcode, when that length is in `SHORT_SET`, and raises
`LEN_MISMATCH` when it is not. -/
def Obligations.ShortHeaderFramesLoseTheirOpcode : Prop :=
  ∀ (s : State) (a : Args), a.a0 ∈ s.cfg.shortSet → a.data.length ≤ 251 →
    ∃ (n c : Byte) (fr : List Byte), n.toNat = a.data.length + 4 ∧ fr = [0xFF#8, n, 0#8] ++ a.data ++ [c] ∧
      c = 0xFF#8 ^^^ n ^^^ xorFold a.data ∧
      (∀ a' : Args, a'.a0 ∈ s.cfg.shortSet → a'.data = a.data →
        exec (.build a') s = .next { s with rspOut := s.rspOut ++ [.ok 0#8 0#8 fr] }) ∧
      ∀ p : Args, p.data = fr → p.f = false →
        (n ∈ s.cfg.shortSet →
          exec (.parse p) s = .next { s with rspOut := s.rspOut ++ [.ok 0#8 n a.data] }) ∧
        (n ∉ s.cfg.shortSet →
          exec (.parse p) s = .next { s with rspOut := s.rspOut ++ [.error (.malformedFrame .lenMismatch)] })

/-- From R130: finalising a finalised frame changes nothing in the normal class, nor in the short-header class when the
length is itself in `SHORT_SET`; in the short-header class with any other length the second application writes the length
at offset 2 as well, where it may already stand (log entry 16). -/
def Obligations.FinIsIdempotentUnlessTheClassChanges : Prop :=
  ∀ (s : State) (a : Args), 4 ≤ a.data.length → a.data.length ≤ 255 →
    ∃ t u : List Byte,
      exec (.fin a) s = .next { s with rspOut := s.rspOut ++ [.ok 0#8 0#8 t] } ∧
      exec (.fin { a with data := t }) s = .next { s with rspOut := s.rspOut ++ [.ok 0#8 0#8 u] } ∧
      (byteAt a.data 1 ∉ s.cfg.shortSet ∨ BitVec.ofNat 8 a.data.length ∈ s.cfg.shortSet → u = t) ∧
      (byteAt a.data 1 ∈ s.cfg.shortSet → BitVec.ofNat 8 a.data.length ∉ s.cfg.shortSet →
        (byteAt u 1).toNat = a.data.length ∧ (byteAt u 2).toNat = a.data.length ∧ xorFold u = 0#8)

/-! ### The receiver -/

/-- From R157 and the state written of R152: from any running state, after `RXB(MARKER)` the buffer holds the marker alone;
nothing is emitted and no other element changes. That the dropped bytes beyond it stay listed in `RXBUF`, where they mean
nothing, is the model's reading (log entry 8). -/
def Obligations.MarkerByteStartsANewAccumulation : Prop :=
  ∀ s : State, s.run = true → ∃ t, exec (.rxb 0xFF#8) s = .next t ∧
    t.rxlen.val = 1 ∧ t.rxbuf.read 0 = some 0xFF#8 ∧ (∀ off, off ≠ 0 → t.rxbuf.read off = s.rxbuf.read off) ∧
    { t with rxlen := s.rxlen, rxbuf := s.rxbuf } = s

/-- R152, a byte other than the marker that does not complete a frame: it is stored at `RXBUF[RXLEN]`, the count goes up
by one, and nothing else changes; past the 255th byte it is not stored and the count saturates at 256. -/
def Obligations.IncompleteByteIsAppended : Prop :=
  (∀ (s : State) (b : Byte) (acc : List Byte), s.run = true → b ≠ 0xFF#8 → s.rxlen.val < 255 →
    s.rxbuf.readBytes 0 s.rxlen.val = some acc → ¬ Complete s.cfg (acc ++ [b]) →
    ∃ t, exec (.rxb b) s = .next t ∧
      t.rxlen.val = s.rxlen.val + 1 ∧ t.rxbuf.readBytes 0 t.rxlen.val = some (acc ++ [b]) ∧
      (∀ off, off ≠ s.rxlen.val → t.rxbuf.read off = s.rxbuf.read off) ∧
      { t with rxlen := s.rxlen, rxbuf := s.rxbuf } = s) ∧
  (∀ (s : State) (b : Byte), s.run = true → b ≠ 0xFF#8 → 255 ≤ s.rxlen.val →
    exec (.rxb b) s = .next { s with rxlen := 256 })

/-- From R153 and the state written of R152: the byte that completes a frame dispatches it: one OBS event with the whole accumulation, for every frame and
whatever its checksum; the mailbox overwritten, whether or not it was full, unless the byte at offset 1 is `ACK_OPCODE`,
when it is not touched; and the buffer emptied. Nothing else changes. That the emptied buffer's bytes stay listed and that
`PENDBUF` keeps older bytes beyond the new frame is the model's reading (log entry 8). -/
def Obligations.CompletedFrameIsDispatched : Prop :=
  ∀ (s : State) (b : Byte) (acc fr : List Byte), s.run = true → b ≠ 0xFF#8 →
    s.rxbuf.readBytes 0 s.rxlen.val = some acc → fr = acc ++ [b] → Complete s.cfg fr →
    ∃ t, exec (.rxb b) s = .next t ∧
      t.obsOut = s.obsOut ++ [fr] ∧ t.rxlen.val = 0 ∧
      (∀ off, off ≠ s.rxlen.val → t.rxbuf.read off = s.rxbuf.read off) ∧
      (byteAt fr 1 ≠ s.cfg.ackOpcode →
        t.pendv = true ∧ pendValid t = true ∧ t.pendlen.val = fr.length ∧
        t.pendbuf.readBytes 0 fr.length = some fr ∧
        ∀ off, fr.length ≤ off → t.pendbuf.read off = s.pendbuf.read off) ∧
      (byteAt fr 1 = s.cfg.ackOpcode → t.pendv = s.pendv ∧ t.pendlen = s.pendlen ∧ t.pendbuf = s.pendbuf) ∧
      { t with
        obsOut := s.obsOut, rxlen := s.rxlen, rxbuf := s.rxbuf
        pendv := s.pendv, pendlen := s.pendlen, pendbuf := s.pendbuf } = s

/-- R154: `RXEOF` while running: `TCLOSED` set, `RUN` cleared, and nothing else. -/
def Obligations.RxeofStopsTheReceiver : Prop :=
  ∀ (s : State) (b : Byte), s.run = true →
    exec (.rxeof b) s = .next { s with tclosed := true, run := false }

/-- R162, row by row, in the states of the invariant: what each event does to `RUN`, `RXLEN` and the outputs. `acc` is the
accumulation. A frame completes only from `RXLEN` 3 to 253. -/
def Obligations.FramingStateMachineTransitions : Prop :=
  (∀ (s : State) (a : Args), ∃ t, exec (.start a) s = .next t ∧ t.run = true ∧ t.rxlen.val = 0 ∧ t.obsOut = s.obsOut) ∧
  (∀ (s : State) (a : Args), ∃ t, exec (.stop a) s = .next t ∧ t.run = false ∧ t.rxlen = s.rxlen ∧ t.obsOut = s.obsOut) ∧
  (∀ (s : State) (a : Args), ∃ t, exec (.reset a) s = .next t ∧ t.run = false ∧ t.rxlen.val = 0 ∧ t.obsOut = s.obsOut) ∧
  (∀ (s : State) (b : Byte), s.run = true → ∃ t, exec (.rxeof b) s = .next t ∧
    t.run = false ∧ t.rxlen = s.rxlen ∧ t.tclosed = true ∧ t.obsOut = s.obsOut) ∧
  (∀ (s : State) (b : Byte), Inv s → s.run = true → ∃ t, exec (.rxb b) s = .next t ∧ t.run = true ∧
    (b = 0xFF#8 → t.rxlen.val = 1 ∧ t.rxbuf.read 0 = some 0xFF#8 ∧ t.obsOut = s.obsOut ∧ t.pendv = s.pendv) ∧
    (b ≠ 0xFF#8 → s.rxlen.val = 0 → t.rxlen.val = 1 ∧ t.rxbuf.read 0 = some b ∧ t.obsOut = s.obsOut) ∧
    (b ≠ 0xFF#8 → 255 ≤ s.rxlen.val → t.rxlen.val = 256 ∧ t.rxbuf = s.rxbuf ∧ t.obsOut = s.obsOut) ∧
    (b ≠ 0xFF#8 → s.rxlen.val < 255 → ∀ acc, s.rxbuf.readBytes 0 s.rxlen.val = some acc →
      (¬ Complete s.cfg (acc ++ [b]) → t.rxlen.val = s.rxlen.val + 1 ∧ t.obsOut = s.obsOut ∧ t.pendv = s.pendv) ∧
      (Complete s.cfg (acc ++ [b]) → 3 ≤ s.rxlen.val ∧ s.rxlen.val ≤ 253 ∧
        t.rxlen.val = 0 ∧ t.obsOut = s.obsOut ++ [acc ++ [b]] ∧
        t.pendv = (s.pendv || decide (byteAt (acc ++ [b]) 1 ≠ s.cfg.ackOpcode)) ∧
        (byteAt (acc ++ [b]) 1 ≠ s.cfg.ackOpcode → t.pendbuf.readBytes 0 t.pendlen.val = some (acc ++ [b])) ∧
        (byteAt (acc ++ [b]) 1 = s.cfg.ackOpcode → t.pendbuf = s.pendbuf ∧ t.pendlen = s.pendlen))))

/-- The frame of `RXB`: the one byte of `RXBUF` it may write is at the offset its meaning computes (none when that is 255
or more); `PENDBUF` changes only below the length of a dispatched frame; flags other than `PENDV`, parameters and command
port stay. The ports and turns are the model's data (log entries 3, 4 and 5), and that bytes which mean nothing after a
dropped or dispatched frame stay listed is the model's reading (log entry 8). -/
def Obligations.RxbFrame : Prop :=
  ∀ (s t : State) (b : Byte), exec (.rxb b) s = .next t →
    (∀ off, off ≠ rxStoreOffset s b ∨ 255 ≤ off → t.rxbuf.read off = s.rxbuf.read off) ∧
    (t.obsOut = s.obsOut → t.pendbuf = s.pendbuf ∧ t.pendlen = s.pendlen ∧ t.pendv = s.pendv) ∧
    (∀ fr, t.obsOut = s.obsOut ++ [fr] → ∀ off, fr.length ≤ off → t.pendbuf.read off = s.pendbuf.read off) ∧
    t.run = s.run ∧ t.tclosed = s.tclosed ∧ t.chken = s.chken ∧ t.cfg = s.cfg ∧
    t.cmdIn = s.cmdIn ∧ t.rxIn = s.rxIn ∧ t.sched = s.sched ∧ t.rspOut = s.rspOut

/-- R159: in the states of the invariant a dispatched frame has 4 to 254 bytes, so bytes past the 255th are never part of
one. -/
def Obligations.DispatchedFramesHaveFourTo254Bytes : Prop :=
  ∀ (s t : State) (b : Byte), Inv s → exec (.rxb b) s = .next t →
    t.obsOut = s.obsOut ∨ ∃ fr, t.obsOut = s.obsOut ++ [fr] ∧ 4 ≤ fr.length ∧ fr.length ≤ 254

/-- From R158: the bytes of a well-formed frame, offered in order to a running receiver whatever its state, cause exactly one
dispatch, at the last byte, of exactly that frame, and end in idle. Either class: a short-header frame that is `WF` has
its length, a member of `SHORT_SET`, at offset 1. That the bytes are consecutive is the model's schedule (log entry 3). -/
def Obligations.WellFormedFrameIsReceivedWhole : Prop :=
  ∀ (s : State) (fr : List Byte) (symbols : List Symbol) (turns : List Agent),
    s.run = true → WellFormedFrame s.cfg fr →
    s.rxIn = rxSymbols fr ++ symbols → s.sched = List.replicate fr.length .receiver ++ turns →
    (∀ k < fr.length, ∃ u, Host.Core.run Sys2Proof.core k s = .next u ∧ u.obsOut = s.obsOut) ∧
    ∃ t, Host.Core.run Sys2Proof.core fr.length s = .next t ∧
      t.rxIn = symbols ∧ t.sched = turns ∧ t.run = true ∧ t.rxlen.val = 0 ∧
      t.obsOut = s.obsOut ++ [fr] ∧ t.rspOut = s.rspOut ∧ t.cfg = s.cfg ∧ t.chken = s.chken ∧
      (byteAt fr 1 ≠ s.cfg.ackOpcode →
        t.pendv = true ∧ t.pendlen.val = fr.length ∧ t.pendbuf.readBytes 0 fr.length = some fr) ∧
      (byteAt fr 1 = s.cfg.ackOpcode → t.pendv = s.pendv ∧ t.pendlen = s.pendlen ∧ t.pendbuf = s.pendbuf)

/-- From R158 and R127, end to end: what `BUILD` answers for an opcode of the normal class that is no acknowledgement, if it is free of
later markers, sent through a running receiver, is what `PREAD` answers, and `PARSE` of that gives opcode and payload. The receiver's turns are the model's schedule (log
entry 3). -/
def Obligations.BuiltFrameComesBackThroughTheReceiver : Prop :=
  ∀ (s : State) (a : Args), s.run = true → a.a0 ∉ s.cfg.shortSet → a.a0 ≠ s.cfg.ackOpcode → a.data.length ≤ 251 →
    ∃ fr : List Byte, exec (.build a) s = .next { s with rspOut := s.rspOut ++ [.ok 0#8 0#8 fr] } ∧
      (NoMarkerAfterFirst fr → ∀ (r : State), r.run = true → r.cfg = s.cfg →
        r.rxIn = rxSymbols fr → r.sched = List.replicate fr.length .receiver →
        ∃ t, Host.Core.run Sys2Proof.core fr.length r = .next t ∧
          (∀ q : Args, exec (.pread q) t = .next { t with rspOut := t.rspOut ++ [.ok 1#8 0#8 fr] }) ∧
          ∀ p : Args, p.data = fr → p.f = true → p.a0 = a.a0 →
            exec (.parse p) t = .next { t with rspOut := t.rspOut ++ [.ok 0#8 a.a0 a.data] })

/-! ### Rules of the whole machine -/

/-- R28: `RUN` is 1 from a `START` until the next `STOP`, `RXEOF` or `RESET`: no other operation or event writes it. While
it is 0 the RX port consumes nothing. -/
def Obligations.RunChangesOnlyByStartStopEofReset : Prop :=
  (∀ (i : Instr) (s t : State), exec i s = .next t →
    t.run = (match i with
      | .start _ => true
      | .stop _ | .rxeof _ | .reset _ => false
      | _ => s.run)) ∧
  (∀ s t : State, s.run = false → step s = .next t → t.rxIn = s.rxIn)

/-- R25: what sets `PENDV` (the dispatch of a frame whose byte at offset 1 differs from `ACK_OPCODE`), what clears it
(`PCLR`, `RESET`), that nothing else changes it; bit 2 of the CSR and the output `pend_valid` show it. -/
def Obligations.PendvIsSetByDispatchAndClearedByPclrReset : Prop :=
  (∀ (i : Instr) (s t : State), exec i s = .next t →
    match i with
    | .pclr _ | .reset _ => t.pendv = false
    | .rxb _ => t.pendv = true ↔
        s.pendv = true ∨ ∃ fr, t.obsOut = s.obsOut ++ [fr] ∧ byteAt fr 1 ≠ s.cfg.ackOpcode
    | _ => t.pendv = s.pendv) ∧
  (∀ s : State, (csr s).getLsbD 2 = s.pendv ∧ pendValid s = s.pendv)

/-- R26: `TCLOSED` is set by `RXEOF`, cleared by `START` and `RESET`, changed by nothing else, and shown as bit 3 of the
CSR. -/
def Obligations.TclosedIsSetByEofAndClearedByStartReset : Prop :=
  (∀ (i : Instr) (s t : State), exec i s = .next t →
    t.tclosed = (match i with
      | .rxeof _ => true
      | .start _ | .reset _ => false
      | _ => s.tclosed)) ∧
  (∀ s : State, (csr s).getLsbD 3 = s.tclosed)

/-- From R29: `CHKEN` is written by `CTRLW` and `RESET` only, and has no effect on `RXB`, `CHKV`, `FIN` or `BUILD`: they do the
same whatever it is. -/
def Obligations.ChkenIsWrittenByCtrlwResetOnlyAndIgnoredByRxbChkvFinBuild : Prop :=
  (∀ (i : Instr) (s t : State), exec i s = .next t →
    t.chken = (match i with
      | .ctrlw a => a.a0.getLsbD 1
      | .reset _ => true
      | _ => s.chken)) ∧
  (∀ (i : Instr) (s : State) (v : Bool),
    (∃ a, i = .chkv a ∨ i = .fin a ∨ i = .build a) ∨ (∃ b, i = .rxb b) →
    (∀ t, exec i s = .next t → exec i { s with chken := v } = .next { t with chken := v }))

/-- R6: no operation and no event changes a parameter. -/
def Obligations.NoStepChangesAParameter : Prop :=
  (∀ (i : Instr) (s t : State), exec i s = .next t → t.cfg = s.cfg) ∧
  (∀ s t : State, step s = .next t → t.cfg = s.cfg)

/-- R199 and R81: every command that goes on gives exactly one response; if that is an error the state is otherwise the
state before, and the header carries code and cause and zeros elsewhere. An RX event gives no response. -/
def Obligations.OneResponsePerCommandAndErrorsChangeNothing : Prop :=
  (∀ (i : Instr) (s t : State), exec i s = .next t →
    match i.args? with
    | some _ => t.obsOut = s.obsOut ∧ ∃ r, t.rspOut = s.rspOut ++ [r] ∧
        ∀ e, r = .error e → t = { s with rspOut := s.rspOut ++ [.error e] }
    | none => t.rspOut = s.rspOut) ∧
  (∀ e : CmdError, (responseHeader (.error e)).toNat % 2 ^ 24 = 0 ∧ 2 ^ 28 ≤ (responseHeader (.error e)).toNat ∧
    responseData (.error e) = [])

/-- R221: the pure operations answer in every state, change nothing but the response, and their responses depend on their
operands, on the parameters and, for `PARSE`, on `CHKEN`, and on nothing else. -/
def Obligations.PureOperationsDependOnOperandsAndParameters : Prop :=
  ∀ (i : Instr) (s s' : State), isPure i = true → s'.cfg = s.cfg →
    ((∃ a, i = .parse a) → s'.chken = s.chken) →
    ∃ r : Response, exec i s = .next { s with rspOut := s.rspOut ++ [r] } ∧
      exec i s' = .next { s' with rspOut := s'.rspOut ++ [r] }

/-- From R31: the receive buffer and its count are invisible to the command port: two states that differ only there answer
every command alike and end alike but for them. -/
def Obligations.CommandsCannotSeeTheReceiveBuffer : Prop :=
  ∀ (i : Instr) (s t : State) (buf : Memory) (len : Fin 257), i.args?.isSome = true → exec i s = .next t →
    ∃ t', exec i { s with rxbuf := buf, rxlen := len } = .next t' ∧
      { t' with rxbuf := t.rxbuf, rxlen := t.rxlen } = t

/-- From R55, R61: the frame of the commands over both buffers: every byte of `RXBUF` and of `PENDBUF` reads as before, and
`PENDLEN` is kept, under every command but `RESET`; `RXLEN` is kept under every command but `START` and `RESET`; the input
ports and the turns are kept. The ports and turns are the model's data (log entries 3 and 4), that `RESET` keeps them too is
the model's choice (log entry 5), and that the bytes of `RXBUF` stay after `START`, where they mean nothing, is the model's
reading (log entry 8). -/
def Obligations.CommandsLeaveTheBuffersUnchanged : Prop :=
  ∀ (i : Instr) (s t : State), i.args?.isSome = true → exec i s = .next t →
    t.cmdIn = s.cmdIn ∧ t.rxIn = s.rxIn ∧ t.sched = s.sched ∧
    (selectCode i ≠ some 0xF →
      (∀ off, t.rxbuf.read off = s.rxbuf.read off) ∧ (∀ off, t.pendbuf.read off = s.pendbuf.read off) ∧
      t.pendlen = s.pendlen) ∧
    (selectCode i ≠ some 0xF → selectCode i ≠ some 0x8 → t.rxlen = s.rxlen)

/-- The model's stops (log entries 7 and 9): nothing is refused; a fault is either an RX event executed while `RUN = 0`, or
a read of a buffer byte that holds no value, by `PREAD` of a populated mailbox or by `RXB` of a running receiver. -/
def Obligations.StopsComeOnlyFromUnwrittenBytesOrAStoppedReceiver : Prop :=
  ∀ (i : Instr) (s : State),
    (∀ r, exec i s ≠ .refused r) ∧
    (exec i s = .fault .receiverStopped ↔ i.args? = none ∧ s.run = false) ∧
    (exec i s = .fault .noValue →
      (∃ a, i = .pread a ∧ s.pendv = true ∧ ¬ PendHeld s) ∨ (∃ b, i = .rxb b ∧ s.run = true ∧ ¬ RxHeld s)) ∧
    (∀ a, i = .pread a → s.pendv = true → ¬ PendHeld s → exec i s = .fault .noValue)

/-! ### The invariant -/

/-- The reset state meets the invariant. -/
def Obligations.ResetMeetsTheInvariant : Prop := Inv State.reset

/-- Every step keeps the invariant: canonical buffers, R33, R34 (b), (d), (e), and the sizes of R88 and R81. -/
def Obligations.StepKeepsTheInvariant : Prop :=
  ∀ s t : State, Inv s → step s = .next t → Inv t

/-- From R33: no step reads a byte that holds no value, where the model would stop (log entry 7): in the states of the
invariant every step goes on. That it keeps the invariant is `StepKeepsTheInvariant`. -/
def Obligations.StepAlwaysGoesOn : Prop :=
  ∀ s : State, Inv s → GoesOn (step s)
end

