-- ==== Sys2Proof/Laws/Codec.lean ====
section
/-! SUPPORT. The value codec in arithmetic: each bit-vector function of Operands.lean as a number. -/

namespace Sys2Proof.Machine

theorem loByte_toNat (w : Half) : (loByte w).toNat = w.toNat % 256 := by
  simp [loByte, BitVec.extractLsb'_toNat]

theorem hiByte_toNat (w : Half) : (hiByte w).toNat = w.toNat / 256 := by
  have := w.isLt
  simp only [hiByte, BitVec.extractLsb'_toNat, Nat.shiftRight_eq_div_pow]
  omega

theorem half_toNat (hi lo : Byte) : (half hi lo).toNat = hi.toNat * 256 + lo.toNat := by
  have := lo.isLt
  simp only [half, BitVec.toNat_append]
  rw [← Nat.shiftLeft_add_eq_or_of_lt (by simpa using this)]
  simp [Nat.shiftLeft_eq]

/-- A two's-complement pattern of 16 bits as a signed number. -/
theorem half_toInt (hi lo : Byte) :
    (half hi lo).toInt = (hi.toNat * 256 + lo.toNat : Int) - (if hi.toNat ≥ 128 then 65536 else 0) := by
  have hlo := lo.isLt
  have := half_toNat hi lo
  rw [BitVec.toInt_eq_toNat_cond, this]
  split <;> split <;> omega

theorem u16_toNat (v : Int) : ((u16 v).toNat : Int) = v % 65536 := by
  simp only [u16, BitVec.toNat_ofInt]
  omega

theorem shiftLeft_one_toNat (w : Half) : (w <<< 1).toNat = 2 * w.toNat % 65536 := by
  simp [BitVec.toNat_shiftLeft, Nat.shiftLeft_eq, Nat.mul_comm]

/-- `encP` as numbers, for every integer. -/
theorem encP_toNat (v : Int) :
    ((encP v).1.toNat : Int) = 2 * v % 256 ∧ ((encP v).2.toNat : Int) = 2 * (v / 128 % 128) := by
  have hu := u16_toNat v
  have h1 := loByte_toNat (u16 v <<< 1)
  have h2 := hiByte_toNat (u16 v <<< 1)
  have hs := shiftLeft_one_toNat (u16 v)
  simp only [encP]
  refine ⟨by omega, ?_⟩
  simp only [BitVec.toNat_shiftLeft, Nat.shiftLeft_eq, h2, hs]
  omega

/-- `encW` as numbers, for every integer. -/
theorem encW_toNat (v : Int) :
    ((encW v).1.toNat : Int) = 2 * v % 256 ∧ ((encW v).2.toNat : Int) = v / 128 % 256 := by
  have hu := u16_toNat v
  have h1 := loByte_toNat (u16 v <<< 1)
  have h2 := hiByte_toNat (u16 v <<< 1)
  have hs := shiftLeft_one_toNat (u16 v)
  simp only [encW]
  omega

/-- `decP` as a number: seven bits of each byte, sign-extended from 14 bits. -/
theorem decP_eq (b0 b1 : Byte) :
    decP b0 b1 = (b1.toNat / 2 * 128 + b0.toNat / 2 : Int) - (if b1.toNat ≥ 128 then 16384 else 0) := by
  have h0 := b0.isLt
  have h1 := b1.isLt
  have ht : (((b1 >>> 1).setWidth 14 <<< 7 : BitVec 14) ||| (b0 >>> 1).setWidth 14).toNat =
      b1.toNat / 2 * 128 + b0.toNat / 2 := by
    simp only [BitVec.toNat_or, BitVec.toNat_shiftLeft, BitVec.toNat_setWidth, BitVec.toNat_ushiftRight,
      Nat.shiftRight_eq_div_pow, Nat.pow_one]
    rw [Nat.mod_eq_of_lt (a := b1.toNat / 2) (by omega), Nat.mod_eq_of_lt (a := b0.toNat / 2) (by omega),
      Nat.mod_eq_of_lt (by rw [Nat.shiftLeft_eq]; omega), ← Nat.shiftLeft_add_eq_or_of_lt (by omega),
      Nat.shiftLeft_eq]
  simp only [decP]
  rw [BitVec.toInt_eq_toNat_cond, ht]
  split <;> split <;> omega

/-- `decW` as a number: the signed 16-bit value, halved toward minus infinity. -/
theorem decW_eq (b0 b1 : Byte) :
    decW b0 b1 = ((b1.toNat * 256 + b0.toNat : Int) - (if b1.toNat ≥ 128 then 65536 else 0)) / 2 := by
  have h0 := b0.isLt
  have h1 := b1.isLt
  have ht : ((b1.setWidth 16 <<< 8 : Half) ||| b0.setWidth 16).toNat = b1.toNat * 256 + b0.toNat := by
    simp only [BitVec.toNat_or, BitVec.toNat_shiftLeft, BitVec.toNat_setWidth]
    rw [Nat.mod_eq_of_lt (a := b1.toNat) (by omega), Nat.mod_eq_of_lt (a := b0.toNat) (by omega),
      Nat.mod_eq_of_lt (by rw [Nat.shiftLeft_eq]; omega), ← Nat.shiftLeft_add_eq_or_of_lt (by omega),
      Nat.shiftLeft_eq]
  simp only [decW]
  rw [BitVec.toInt_eq_toNat_cond, ht]
  split <;> split <;> omega

end Sys2Proof.Machine
end

