-- ==== Sys2Proof/Laws/Decode.lean ====
section
/-! SUPPORT. The header's fields: taking a header apart into bytes and back, and each field of a request's header. -/

namespace Sys2Proof

/-- The four bytes of a word, joined again. -/
theorem joinBytes_extract (w : Word) :
    joinBytes (w.extractLsb' 24 8) (w.extractLsb' 16 8) (w.extractLsb' 8 8) (w.extractLsb' 0 8) = w := by
  apply BitVec.eq_of_getLsbD_eq
  intro i hi
  simp only [joinBytes, BitVec.getLsbD_append, BitVec.getLsbD_extractLsb']
  interval_cases i <;> simp

/-- The bytes of four joined bytes. -/
theorem wordBytes_joinBytes (b3 b2 b1 b0 : Byte) : wordBytes (joinBytes b3 b2 b1 b0) = [b3, b2, b1, b0] := by
  simp only [wordBytes, joinBytes, List.cons.injEq, and_true]
  refine ⟨?_, ?_, ?_, ?_⟩ <;>
  · apply BitVec.eq_of_getLsbD_eq
    intro i hi
    simp only [BitVec.getLsbD_append, BitVec.getLsbD_extractLsb']
    interval_cases i <;> simp

theorem joinBytes_toNat (b3 b2 b1 b0 : Byte) :
    (joinBytes b3 b2 b1 b0).toNat = ((b3.toNat * 256 + b2.toNat) * 256 + b1.toNat) * 256 + b0.toNat := by
  have h2 := b2.isLt
  have h1 := b1.isLt
  have h0 := b0.isLt
  simp only [joinBytes, BitVec.toNat_append]
  rw [← Nat.shiftLeft_add_eq_or_of_lt (by simpa using h0), ← Nat.shiftLeft_add_eq_or_of_lt (by simpa using h1),
    ← Nat.shiftLeft_add_eq_or_of_lt (by simpa using h2)]
  simp [Nat.shiftLeft_eq]

theorem headerSel_requestHeader (sel : BitVec 4) (a : Args) : headerSel (requestHeader sel a) = sel := by
  apply BitVec.eq_of_getLsbD_eq
  intro i hi
  simp only [headerSel, requestHeader, BitVec.getLsbD_append, BitVec.getLsbD_extractLsb']
  interval_cases i <;> simp

theorem headerReserved_requestHeader (sel : BitVec 4) (a : Args) : headerReserved (requestHeader sel a) = 0#3 := by
  apply BitVec.eq_of_getLsbD_eq
  intro i hi
  simp only [headerReserved, requestHeader, BitVec.getLsbD_append, BitVec.getLsbD_extractLsb']
  interval_cases i <;> simp

theorem headerCount_requestHeader (sel : BitVec 4) (a : Args) (h : a.wf = true) :
    headerCount (requestHeader sel a) = a.data.length := by
  have : (requestHeader sel a).extractLsb' 0 8 = BitVec.ofNat 8 a.data.length := by
    apply BitVec.eq_of_getLsbD_eq
    intro i hi
    simp only [requestHeader, BitVec.getLsbD_append, BitVec.getLsbD_extractLsb']
    interval_cases i <;> simp
  simp only [Args.wf, decide_eq_true_eq] at h
  simp only [headerCount, this, BitVec.toNat_ofNat]
  omega

theorem headerArgs_requestHeader (sel : BitVec 4) (a : Args) : headerArgs (requestHeader sel a) a.data = a := by
  obtain ⟨f, a1, a0, data⟩ := a
  simp only [headerArgs, Args.mk.injEq, and_true]
  refine ⟨?_, ?_, ?_⟩
  · cases f <;> simp only [requestHeader, BitVec.getLsbD_append] <;> simp
  all_goals
    apply BitVec.eq_of_getLsbD_eq
    intro i hi
    simp only [requestHeader, BitVec.getLsbD_append, BitVec.getLsbD_extractLsb']
    interval_cases i <;> simp

/-- A request header is put together again from its fields. -/
theorem requestHeader_header (w : Word) (data : List Byte) (hr : headerReserved w = 0#3)
    (hn : data.length = headerCount w) : requestHeader (headerSel w) (headerArgs w data) = w := by
  have h25 := congrArg (fun r => r.getLsbD 0) hr
  have h26 := congrArg (fun r => r.getLsbD 1) hr
  have h27 := congrArg (fun r => r.getLsbD 2) hr
  simp only [headerReserved, BitVec.getLsbD_extractLsb'] at h25 h26 h27
  apply BitVec.eq_of_getLsbD_eq
  intro i hi
  simp only [requestHeader, headerSel, headerArgs, hn, headerCount, BitVec.ofNat_toNat, BitVec.getLsbD_append,
    BitVec.getLsbD_extractLsb', BitVec.setWidth_eq]
  interval_cases i <;> simp_all

end Sys2Proof
end

