-- ==== Sys2Proof/Laws/Frame.lean ====
section
/-! SUPPORT. The byte-string functions of a frame: the fold, the length offset, the patcher. -/

namespace Sys2Proof.Machine

theorem foldl_xor_acc (x : Byte) (s : List Byte) :
    s.foldl (fun x b => x ^^^ b) x = x ^^^ xorFold s := by
  unfold xorFold
  induction s generalizing x with
  | nil => simp
  | cons b s ih =>
    simp only [List.foldl_cons]
    rw [ih (x ^^^ b), ih (0#8 ^^^ b)]
    simp [BitVec.xor_assoc]

@[simp] theorem xorFold_nil : xorFold [] = 0#8 := rfl

@[simp] theorem xorFold_cons (b : Byte) (s : List Byte) : xorFold (b :: s) = b ^^^ xorFold s := by
  show s.foldl _ (0#8 ^^^ b) = _
  rw [foldl_xor_acc]
  simp

@[simp] theorem xorFold_append (s t : List Byte) : xorFold (s ++ t) = xorFold s ^^^ xorFold t := by
  induction s with
  | nil => simp
  | cons b s ih => simp [ih, BitVec.xor_assoc]

/-- An even number of equal bytes folds to zero. -/
theorem xorFold_replicate_even (k : Nat) (b : Byte) : xorFold (List.replicate (2 * k) b) = 0#8 := by
  induction k with
  | zero => rfl
  | succ k ih =>
    rw [show 2 * (k + 1) = 2 * k + 1 + 1 by omega, List.replicate_succ, List.replicate_succ, xorFold_cons, xorFold_cons, ih]
    simp

/-- The fold does not depend on the order of the bytes (R111 (a), R120). -/
theorem xorFold_perm {s t : List Byte} (h : s.Perm t) : xorFold s = xorFold t := by
  induction h with
  | nil => rfl
  | cons b _ ih => simp [ih]
  | swap a b l =>
    simp only [xorFold_cons, ← BitVec.xor_assoc]
    rw [BitVec.xor_comm b a]
  | trans _ _ h1 h2 => exact h1.trans h2

theorem lengthOffset_mem {p : Params} {o : Byte} (h : o ∈ p.shortSet) : lengthOffset p o = 1 := by
  simp [lengthOffset, h, Config.lenOffShort]

theorem lengthOffset_not_mem {p : Params} {o : Byte} (h : o ∉ p.shortSet) : lengthOffset p o = 2 := by
  simp [lengthOffset, h, Config.lenOffNormal]

theorem lengthOffset_cases (p : Params) (o : Byte) : lengthOffset p o = 1 ∨ lengthOffset p o = 2 := by
  by_cases h : o ∈ p.shortSet
  · exact .inl (lengthOffset_mem h)
  · exact .inr (lengthOffset_not_mem h)

theorem byteAt_eq_getElem {s : List Byte} {i : Nat} (h : i < s.length) : byteAt s i = s[i] := by
  simp [byteAt, h]

theorem byteAt_eq_iff {s : List Byte} {i : Nat} {b : Byte} (h : i < s.length) :
    s[i]? = some b ↔ byteAt s i = b := by
  simp [byteAt, h]

/-- A byte string of four or more bytes, taken apart as a frame. -/
theorem frame_split {s : List Byte} (h : 4 ≤ s.length) :
    ∃ d0 op d2 payload c, s = [d0, op, d2] ++ payload ++ [c] := by
  match s, h with
  | d0 :: op :: d2 :: x :: l, _ =>
    refine ⟨d0, op, d2, (x :: l).dropLast, (x :: l).getLast (by simp), ?_⟩
    simp [List.dropLast_append_getLast]

/-- The patcher on a frame taken apart: the length over byte 1 or over byte 2, then the checksum in the last place. -/
theorem patch_split (p : Params) (d0 op d2 c : Byte) (payload : List Byte) :
    patch p ([d0, op, d2] ++ payload ++ [c]) =
      (let n := BitVec.ofNat 8 (payload.length + 4)
       let h1 := if op ∈ p.shortSet then n else op
       let h2 := if op ∈ p.shortSet then d2 else n
       [d0, h1, h2] ++ payload ++ [d0 ^^^ (h1 ^^^ (h2 ^^^ xorFold payload))]) := by
  by_cases h : op ∈ p.shortSet
  · simp [patch, byteAt, lengthOffset_mem h, h]
  · simp [patch, byteAt, lengthOffset_not_mem h, h]

@[simp] theorem patch_length (p : Params) (s : List Byte) : (patch p s).length = s.length := by
  simp [patch]

theorem payloadOf_split (d0 op d2 c : Byte) (payload : List Byte) :
    payloadOf ([d0, op, d2] ++ payload ++ [c]) = payload := by
  simp [payloadOf, Config.hdrLen]

end Sys2Proof.Machine
end

