-- ==== Sys2Proof/Laws/Memory.lean ====
section
/-! SUPPORT. The laws of the byte-addressed spaces: read after write, the canonical form, byte strings. -/

namespace Sys2Proof.Machine

@[simp] theorem Memory.read_nil (off : Nat) : Memory.read [] off = none := rfl

@[simp] theorem Memory.read_write_same (m : Memory) (off : Nat) (b : Byte) :
    (m.write off b).read off = some b := by
  induction m with
  | nil => simp [Memory.write, Memory.read]
  | cons c m ih =>
    obtain ⟨a, x⟩ := c
    simp only [Memory.write]
    split
    · simp [Memory.read]
    · split
      · simp [Memory.read]
      · rename_i _ hne
        simp only [Memory.read, if_neg (Ne.symm hne)]
        exact ih

theorem Memory.read_write_other (m : Memory) {off off' : Nat} (b : Byte) (h : off' ≠ off) :
    (m.write off b).read off' = m.read off' := by
  induction m with
  | nil => simp [Memory.write, Memory.read, Ne.symm h]
  | cons c m ih =>
    obtain ⟨a, x⟩ := c
    simp only [Memory.write]
    split
    · simp [Memory.read, Ne.symm h]
    · split
      · rename_i _ heq
        subst heq
        simp [Memory.read, Ne.symm h]
      · simp only [Memory.read, ih]

theorem Memory.read_write (m : Memory) (off off' : Nat) (b : Byte) :
    (m.write off b).read off' = if off' = off then some b else m.read off' := by
  split
  · next h => subst h; exact m.read_write_same _ b
  · next h => exact m.read_write_other b h

/-- Every cell of a written memory is an old cell or the written one. -/
theorem Memory.mem_write {m : Memory} {off : Nat} {b : Byte} {c : Host.Cell} (h : c ∈ m.write off b) :
    c ∈ m ∨ c = (off, b) := by
  induction m with
  | nil => simpa [Memory.write] using h
  | cons d m ih =>
    obtain ⟨a, x⟩ := d
    simp only [Memory.write] at h
    split at h
    · simp only [List.mem_cons] at h ⊢
      tauto
    · split at h
      · simp only [List.mem_cons] at h ⊢
        tauto
      · simp only [List.mem_cons] at h ⊢
        rcases h with h | h
        · tauto
        · rcases ih h with h | h <;> tauto

/-- A write inside the space keeps the canonical form. -/
theorem Memory.write_wf {m : Memory} {off : Nat} (b : Byte) (h : m.wf) (hoff : off < Config.rxCap) :
    (m.write off b).wf := by
  refine ⟨?_, ?_⟩
  · obtain ⟨hp, -⟩ := h
    induction m with
    | nil => simp [Memory.write]
    | cons d m ih =>
      obtain ⟨a, x⟩ := d
      obtain ⟨ha, hm⟩ := List.pairwise_cons.1 hp
      simp only [Memory.write]
      split
      · next hlt =>
        refine List.pairwise_cons.2 ⟨?_, hp⟩
        intro c hc
        rcases List.mem_cons.1 hc with rfl | hc
        · exact hlt
        · exact Nat.lt_trans hlt (ha c hc)
      · split
        · next heq =>
          subst heq
          exact List.pairwise_cons.2 ⟨ha, hm⟩
        · next hge hne =>
          refine List.pairwise_cons.2 ⟨?_, ih hm⟩
          intro c hc
          rcases Memory.mem_write hc with hc | rfl
          · exact ha c hc
          · show a < off
            omega
  · intro c hc
    rcases Memory.mem_write hc with hc | rfl
    · exact h.2 c hc
    · exact hoff

/-- Writing a byte string inside the space keeps the canonical form. -/
theorem Memory.writeBytes_wf {m : Memory} {off : Nat} (bs : List Byte) (h : m.wf)
    (hoff : off + bs.length ≤ Config.rxCap) : (m.writeBytes off bs).wf := by
  induction bs generalizing m off with
  | nil => exact h
  | cons b bs ih =>
    simp only [List.length_cons] at hoff
    exact ih (Memory.write_wf b h (by omega)) (by omega)

/-- A written byte string is read back at its offsets, and every other offset reads as before. -/
theorem Memory.read_writeBytes (m : Memory) (off : Nat) (bs : List Byte) (i : Nat) :
    (m.writeBytes off bs).read i =
      if off ≤ i ∧ i < off + bs.length then bs[i - off]? else m.read i := by
  induction bs generalizing m off with
  | nil =>
    rw [if_neg (by simp)]
    rfl
  | cons b bs ih =>
    simp only [Memory.writeBytes, ih, List.length_cons, Memory.read_write]
    by_cases h1 : i = off
    · subst h1
      simp
    · by_cases h2 : off + 1 ≤ i ∧ i < off + 1 + bs.length
      · rw [if_pos h2, if_pos (by omega)]
        have : i - off = (i - (off + 1)) + 1 := by omega
        rw [this, List.getElem?_cons_succ]
      · rw [if_neg h2, if_neg h1, if_neg (by omega)]

theorem Memory.readBytes_succ (m : Memory) (off k : Nat) :
    m.readBytes off (k + 1) =
      (m.read off).bind fun b => (m.readBytes (off + 1) k).map fun bs => b :: bs := by
  simp only [Memory.readBytes]
  cases m.read off <;> cases m.readBytes (off + 1) k <;> rfl

/-- Reading `k` bytes answers exactly the byte string that stands there. -/
theorem Memory.readBytes_eq_some {m : Memory} {off k : Nat} {bs : List Byte} :
    m.readBytes off k = some bs ↔ bs.length = k ∧ ∀ i < k, m.read (off + i) = bs[i]? := by
  induction k generalizing off bs with
  | zero => simp [Memory.readBytes, eq_comm, List.eq_nil_iff_length_eq_zero]
  | succ k ih =>
    rw [Memory.readBytes_succ]
    constructor
    · intro h
      obtain ⟨b, hb, h⟩ := Option.bind_eq_some_iff.1 h
      obtain ⟨bs', hbs, rfl⟩ := Option.map_eq_some_iff.1 h
      obtain ⟨hl, hr⟩ := ih.1 hbs
      refine ⟨by simp [hl], ?_⟩
      intro i hi
      cases i with
      | zero => simpa using hb
      | succ i =>
        have := hr i (by omega)
        rw [List.getElem?_cons_succ, ← this]
        congr 1
        omega
    · rintro ⟨hl, hr⟩
      cases bs with
      | nil => simp at hl
      | cons b bs =>
        have h0 := hr 0 (by omega)
        simp only [Nat.add_zero, List.getElem?_cons_zero] at h0
        have h1 : m.readBytes (off + 1) k = some bs := by
          refine ih.2 ⟨by simpa using hl, ?_⟩
          intro i hi
          have := hr (i + 1) (by omega)
          rw [List.getElem?_cons_succ] at this
          rw [← this]
          congr 1
          omega
        simp [h0, h1]

/-- Where every byte holds a value, the byte string can be read. -/
theorem Memory.readBytes_isSome {m : Memory} {off k : Nat} (h : ∀ i < k, (m.read (off + i)).isSome = true) :
    ∃ bs, m.readBytes off k = some bs := by
  induction k generalizing off with
  | zero => exact ⟨[], rfl⟩
  | succ k ih =>
    obtain ⟨b, hb⟩ := Option.isSome_iff_exists.1 (h 0 (by omega))
    obtain ⟨bs, hbs⟩ := ih (off := off + 1) fun i hi => by
      have := h (i + 1) (by omega)
      rwa [show off + (i + 1) = off + 1 + i by omega] at this
    refine ⟨b :: bs, ?_⟩
    rw [Memory.readBytes_succ]
    simp only [Nat.add_zero] at hb
    simp [hb, hbs]

/-- A byte string that has been written is read back whole. -/
theorem Memory.readBytes_writeBytes (m : Memory) (off : Nat) (bs : List Byte) :
    (m.writeBytes off bs).readBytes off bs.length = some bs := by
  refine Memory.readBytes_eq_some.2 ⟨rfl, ?_⟩
  intro i hi
  rw [Memory.read_writeBytes, if_pos (by omega), show off + i - off = i by omega]

/-- A byte appended after a byte string is read with it. -/
theorem Memory.readBytes_append {m : Memory} {k : Nat} {acc : List Byte} (b : Byte)
    (h : m.readBytes 0 k = some acc) : (m.write k b).readBytes 0 (k + 1) = some (acc ++ [b]) := by
  obtain ⟨hl, hr⟩ := Memory.readBytes_eq_some.1 h
  refine Memory.readBytes_eq_some.2 ⟨by simp [hl], ?_⟩
  intro i hi
  simp only [Nat.zero_add] at hr ⊢
  rw [Memory.read_write]
  split
  · next h => subst h; simp [← hl]
  · next h =>
    rw [hr i (by omega), List.getElem?_append_left (by omega)]

end Sys2Proof.Machine
end

