-- ==== Sys2Proof/Laws/PerInstr.lean ====
section
/-! SUPPORT. Statements made per instruction. Family EncodedShape: the port an instruction is encoded for and how many
bytes it takes there (30_encoding.md R80, R86). -/

namespace Sys2Proof.Laws.EncodedShape

/-- A command is encoded for the command port in four header bytes and its data bytes; an event is one RX symbol. -/
def Statement (i : Instr) : Prop :=
  match i.args? with
  | some a => ∃ bytes, encode i = .request bytes ∧ bytes.length = 4 + a.data.length
  | none => ∃ sym, encode i = .symbol sym

/-- The length of an encoded request. -/
theorem requestBytes_length (sel : BitVec 4) (a : Args) : (requestBytes sel a).length = 4 + a.data.length := by
  simp only [requestBytes, wordBytes, List.length_append, List.length_cons, List.length_nil]

theorem nop (a : Args) : Statement (.nop a) := ⟨_, rfl, requestBytes_length _ _⟩
theorem venc (a : Args) : Statement (.venc a) := ⟨_, rfl, requestBytes_length _ _⟩
theorem vdec (a : Args) : Statement (.vdec a) := ⟨_, rfl, requestBytes_length _ _⟩
theorem chkv (a : Args) : Statement (.chkv a) := ⟨_, rfl, requestBytes_length _ _⟩
theorem fin (a : Args) : Statement (.fin a) := ⟨_, rfl, requestBytes_length _ _⟩
theorem build (a : Args) : Statement (.build a) := ⟨_, rfl, requestBytes_length _ _⟩
theorem parse (a : Args) : Statement (.parse a) := ⟨_, rfl, requestBytes_length _ _⟩
theorem reserved7 (a : Args) : Statement (.reserved7 a) := ⟨_, rfl, requestBytes_length _ _⟩
theorem start (a : Args) : Statement (.start a) := ⟨_, rfl, requestBytes_length _ _⟩
theorem stop (a : Args) : Statement (.stop a) := ⟨_, rfl, requestBytes_length _ _⟩
theorem pclr (a : Args) : Statement (.pclr a) := ⟨_, rfl, requestBytes_length _ _⟩
theorem pread (a : Args) : Statement (.pread a) := ⟨_, rfl, requestBytes_length _ _⟩
theorem ctrlw (a : Args) : Statement (.ctrlw a) := ⟨_, rfl, requestBytes_length _ _⟩
theorem statr (a : Args) : Statement (.statr a) := ⟨_, rfl, requestBytes_length _ _⟩
theorem reservedE (a : Args) : Statement (.reservedE a) := ⟨_, rfl, requestBytes_length _ _⟩
theorem reset (a : Args) : Statement (.reset a) := ⟨_, rfl, requestBytes_length _ _⟩
theorem rxb (b : Byte) : Statement (.rxb b) := ⟨_, rfl⟩
theorem rxeof (b : Byte) : Statement (.rxeof b) := ⟨_, rfl⟩

end Sys2Proof.Laws.EncodedShape
end

