-- ==== Sys2Proof/Laws/State.lean ====
section
/-! SUPPORT. Each field of State under each named update (Machine/Ops.lean): the update's value, or the old one. -/

namespace Sys2Proof.Machine

variable (s : State)

/-! ### `RXLEN <- 0` -/

@[simp] theorem State.emptyRx_rxbuf : s.emptyRx.rxbuf = s.rxbuf := rfl
@[simp] theorem State.emptyRx_rxlen : s.emptyRx.rxlen = 0 := rfl
@[simp] theorem State.emptyRx_pendbuf : s.emptyRx.pendbuf = s.pendbuf := rfl
@[simp] theorem State.emptyRx_pendlen : s.emptyRx.pendlen = s.pendlen := rfl
@[simp] theorem State.emptyRx_pendv : s.emptyRx.pendv = s.pendv := rfl
@[simp] theorem State.emptyRx_tclosed : s.emptyRx.tclosed = s.tclosed := rfl
@[simp] theorem State.emptyRx_run : s.emptyRx.run = s.run := rfl
@[simp] theorem State.emptyRx_chken : s.emptyRx.chken = s.chken := rfl
@[simp] theorem State.emptyRx_cfg : s.emptyRx.cfg = s.cfg := rfl
@[simp] theorem State.emptyRx_cmdIn : s.emptyRx.cmdIn = s.cmdIn := rfl
@[simp] theorem State.emptyRx_rxIn : s.emptyRx.rxIn = s.rxIn := rfl
@[simp] theorem State.emptyRx_sched : s.emptyRx.sched = s.sched := rfl
@[simp] theorem State.emptyRx_rspOut : s.emptyRx.rspOut = s.rspOut := rfl
@[simp] theorem State.emptyRx_obsOut : s.emptyRx.obsOut = s.obsOut := rfl

/-! ### The append of `RXB` -/

@[simp] theorem State.appendRx_rxbuf (b : Byte) : (s.appendRx b).rxbuf = if s.rxlen.val < Config.rxCap then s.rxbuf.write s.rxlen.val b else s.rxbuf := rfl
@[simp] theorem State.appendRx_rxlen (b : Byte) : (s.appendRx b).rxlen = countUp s.rxlen := rfl
@[simp] theorem State.appendRx_pendbuf (b : Byte) : (s.appendRx b).pendbuf = s.pendbuf := rfl
@[simp] theorem State.appendRx_pendlen (b : Byte) : (s.appendRx b).pendlen = s.pendlen := rfl
@[simp] theorem State.appendRx_pendv (b : Byte) : (s.appendRx b).pendv = s.pendv := rfl
@[simp] theorem State.appendRx_tclosed (b : Byte) : (s.appendRx b).tclosed = s.tclosed := rfl
@[simp] theorem State.appendRx_run (b : Byte) : (s.appendRx b).run = s.run := rfl
@[simp] theorem State.appendRx_chken (b : Byte) : (s.appendRx b).chken = s.chken := rfl
@[simp] theorem State.appendRx_cfg (b : Byte) : (s.appendRx b).cfg = s.cfg := rfl
@[simp] theorem State.appendRx_cmdIn (b : Byte) : (s.appendRx b).cmdIn = s.cmdIn := rfl
@[simp] theorem State.appendRx_rxIn (b : Byte) : (s.appendRx b).rxIn = s.rxIn := rfl
@[simp] theorem State.appendRx_sched (b : Byte) : (s.appendRx b).sched = s.sched := rfl
@[simp] theorem State.appendRx_rspOut (b : Byte) : (s.appendRx b).rspOut = s.rspOut := rfl
@[simp] theorem State.appendRx_obsOut (b : Byte) : (s.appendRx b).obsOut = s.obsOut := rfl

/-! ### Placing a frame in the mailbox -/

@[simp] theorem State.placePending_rxbuf (fr : List Byte) : (s.placePending fr).rxbuf = s.rxbuf := rfl
@[simp] theorem State.placePending_rxlen (fr : List Byte) : (s.placePending fr).rxlen = s.rxlen := rfl
@[simp] theorem State.placePending_pendbuf (fr : List Byte) : (s.placePending fr).pendbuf = s.pendbuf.writeBytes 0 fr := rfl
@[simp] theorem State.placePending_pendlen (fr : List Byte) : (s.placePending fr).pendlen = Fin.ofNat 256 fr.length := rfl
@[simp] theorem State.placePending_pendv (fr : List Byte) : (s.placePending fr).pendv = true := rfl
@[simp] theorem State.placePending_tclosed (fr : List Byte) : (s.placePending fr).tclosed = s.tclosed := rfl
@[simp] theorem State.placePending_run (fr : List Byte) : (s.placePending fr).run = s.run := rfl
@[simp] theorem State.placePending_chken (fr : List Byte) : (s.placePending fr).chken = s.chken := rfl
@[simp] theorem State.placePending_cfg (fr : List Byte) : (s.placePending fr).cfg = s.cfg := rfl
@[simp] theorem State.placePending_cmdIn (fr : List Byte) : (s.placePending fr).cmdIn = s.cmdIn := rfl
@[simp] theorem State.placePending_rxIn (fr : List Byte) : (s.placePending fr).rxIn = s.rxIn := rfl
@[simp] theorem State.placePending_sched (fr : List Byte) : (s.placePending fr).sched = s.sched := rfl
@[simp] theorem State.placePending_rspOut (fr : List Byte) : (s.placePending fr).rspOut = s.rspOut := rfl
@[simp] theorem State.placePending_obsOut (fr : List Byte) : (s.placePending fr).obsOut = s.obsOut := rfl

/-! ### `PENDV <- 0` -/

@[simp] theorem State.clearPending_rxbuf : s.clearPending.rxbuf = s.rxbuf := rfl
@[simp] theorem State.clearPending_rxlen : s.clearPending.rxlen = s.rxlen := rfl
@[simp] theorem State.clearPending_pendbuf : s.clearPending.pendbuf = s.pendbuf := rfl
@[simp] theorem State.clearPending_pendlen : s.clearPending.pendlen = s.pendlen := rfl
@[simp] theorem State.clearPending_pendv : s.clearPending.pendv = false := rfl
@[simp] theorem State.clearPending_tclosed : s.clearPending.tclosed = s.tclosed := rfl
@[simp] theorem State.clearPending_run : s.clearPending.run = s.run := rfl
@[simp] theorem State.clearPending_chken : s.clearPending.chken = s.chken := rfl
@[simp] theorem State.clearPending_cfg : s.clearPending.cfg = s.cfg := rfl
@[simp] theorem State.clearPending_cmdIn : s.clearPending.cmdIn = s.cmdIn := rfl
@[simp] theorem State.clearPending_rxIn : s.clearPending.rxIn = s.rxIn := rfl
@[simp] theorem State.clearPending_sched : s.clearPending.sched = s.sched := rfl
@[simp] theorem State.clearPending_rspOut : s.clearPending.rspOut = s.rspOut := rfl
@[simp] theorem State.clearPending_obsOut : s.clearPending.obsOut = s.obsOut := rfl

/-! ### `RUN <- v` -/

@[simp] theorem State.setRun_rxbuf (v : Bool) : (s.setRun v).rxbuf = s.rxbuf := rfl
@[simp] theorem State.setRun_rxlen (v : Bool) : (s.setRun v).rxlen = s.rxlen := rfl
@[simp] theorem State.setRun_pendbuf (v : Bool) : (s.setRun v).pendbuf = s.pendbuf := rfl
@[simp] theorem State.setRun_pendlen (v : Bool) : (s.setRun v).pendlen = s.pendlen := rfl
@[simp] theorem State.setRun_pendv (v : Bool) : (s.setRun v).pendv = s.pendv := rfl
@[simp] theorem State.setRun_tclosed (v : Bool) : (s.setRun v).tclosed = s.tclosed := rfl
@[simp] theorem State.setRun_run (v : Bool) : (s.setRun v).run = v := rfl
@[simp] theorem State.setRun_chken (v : Bool) : (s.setRun v).chken = s.chken := rfl
@[simp] theorem State.setRun_cfg (v : Bool) : (s.setRun v).cfg = s.cfg := rfl
@[simp] theorem State.setRun_cmdIn (v : Bool) : (s.setRun v).cmdIn = s.cmdIn := rfl
@[simp] theorem State.setRun_rxIn (v : Bool) : (s.setRun v).rxIn = s.rxIn := rfl
@[simp] theorem State.setRun_sched (v : Bool) : (s.setRun v).sched = s.sched := rfl
@[simp] theorem State.setRun_rspOut (v : Bool) : (s.setRun v).rspOut = s.rspOut := rfl
@[simp] theorem State.setRun_obsOut (v : Bool) : (s.setRun v).obsOut = s.obsOut := rfl

/-! ### `TCLOSED <- v` -/

@[simp] theorem State.setTclosed_rxbuf (v : Bool) : (s.setTclosed v).rxbuf = s.rxbuf := rfl
@[simp] theorem State.setTclosed_rxlen (v : Bool) : (s.setTclosed v).rxlen = s.rxlen := rfl
@[simp] theorem State.setTclosed_pendbuf (v : Bool) : (s.setTclosed v).pendbuf = s.pendbuf := rfl
@[simp] theorem State.setTclosed_pendlen (v : Bool) : (s.setTclosed v).pendlen = s.pendlen := rfl
@[simp] theorem State.setTclosed_pendv (v : Bool) : (s.setTclosed v).pendv = s.pendv := rfl
@[simp] theorem State.setTclosed_tclosed (v : Bool) : (s.setTclosed v).tclosed = v := rfl
@[simp] theorem State.setTclosed_run (v : Bool) : (s.setTclosed v).run = s.run := rfl
@[simp] theorem State.setTclosed_chken (v : Bool) : (s.setTclosed v).chken = s.chken := rfl
@[simp] theorem State.setTclosed_cfg (v : Bool) : (s.setTclosed v).cfg = s.cfg := rfl
@[simp] theorem State.setTclosed_cmdIn (v : Bool) : (s.setTclosed v).cmdIn = s.cmdIn := rfl
@[simp] theorem State.setTclosed_rxIn (v : Bool) : (s.setTclosed v).rxIn = s.rxIn := rfl
@[simp] theorem State.setTclosed_sched (v : Bool) : (s.setTclosed v).sched = s.sched := rfl
@[simp] theorem State.setTclosed_rspOut (v : Bool) : (s.setTclosed v).rspOut = s.rspOut := rfl
@[simp] theorem State.setTclosed_obsOut (v : Bool) : (s.setTclosed v).obsOut = s.obsOut := rfl

/-! ### `CHKEN <- v` -/

@[simp] theorem State.setChken_rxbuf (v : Bool) : (s.setChken v).rxbuf = s.rxbuf := rfl
@[simp] theorem State.setChken_rxlen (v : Bool) : (s.setChken v).rxlen = s.rxlen := rfl
@[simp] theorem State.setChken_pendbuf (v : Bool) : (s.setChken v).pendbuf = s.pendbuf := rfl
@[simp] theorem State.setChken_pendlen (v : Bool) : (s.setChken v).pendlen = s.pendlen := rfl
@[simp] theorem State.setChken_pendv (v : Bool) : (s.setChken v).pendv = s.pendv := rfl
@[simp] theorem State.setChken_tclosed (v : Bool) : (s.setChken v).tclosed = s.tclosed := rfl
@[simp] theorem State.setChken_run (v : Bool) : (s.setChken v).run = s.run := rfl
@[simp] theorem State.setChken_chken (v : Bool) : (s.setChken v).chken = v := rfl
@[simp] theorem State.setChken_cfg (v : Bool) : (s.setChken v).cfg = s.cfg := rfl
@[simp] theorem State.setChken_cmdIn (v : Bool) : (s.setChken v).cmdIn = s.cmdIn := rfl
@[simp] theorem State.setChken_rxIn (v : Bool) : (s.setChken v).rxIn = s.rxIn := rfl
@[simp] theorem State.setChken_sched (v : Bool) : (s.setChken v).sched = s.sched := rfl
@[simp] theorem State.setChken_rspOut (v : Bool) : (s.setChken v).rspOut = s.rspOut := rfl
@[simp] theorem State.setChken_obsOut (v : Bool) : (s.setChken v).obsOut = s.obsOut := rfl

/-! ### The reset state -/

@[simp] theorem State.resetBlock_rxbuf : s.resetBlock.rxbuf = [] := rfl
@[simp] theorem State.resetBlock_rxlen : s.resetBlock.rxlen = 0 := rfl
@[simp] theorem State.resetBlock_pendbuf : s.resetBlock.pendbuf = [] := rfl
@[simp] theorem State.resetBlock_pendlen : s.resetBlock.pendlen = 0 := rfl
@[simp] theorem State.resetBlock_pendv : s.resetBlock.pendv = false := rfl
@[simp] theorem State.resetBlock_tclosed : s.resetBlock.tclosed = false := rfl
@[simp] theorem State.resetBlock_run : s.resetBlock.run = false := rfl
@[simp] theorem State.resetBlock_chken : s.resetBlock.chken = true := rfl
@[simp] theorem State.resetBlock_cfg : s.resetBlock.cfg = s.cfg := rfl
@[simp] theorem State.resetBlock_cmdIn : s.resetBlock.cmdIn = s.cmdIn := rfl
@[simp] theorem State.resetBlock_rxIn : s.resetBlock.rxIn = s.rxIn := rfl
@[simp] theorem State.resetBlock_sched : s.resetBlock.sched = s.sched := rfl
@[simp] theorem State.resetBlock_rspOut : s.resetBlock.rspOut = s.rspOut := rfl
@[simp] theorem State.resetBlock_obsOut : s.resetBlock.obsOut = s.obsOut := rfl

/-! ### A response -/

@[simp] theorem State.respond_rxbuf (r : Response) : (s.respond r).rxbuf = s.rxbuf := rfl
@[simp] theorem State.respond_rxlen (r : Response) : (s.respond r).rxlen = s.rxlen := rfl
@[simp] theorem State.respond_pendbuf (r : Response) : (s.respond r).pendbuf = s.pendbuf := rfl
@[simp] theorem State.respond_pendlen (r : Response) : (s.respond r).pendlen = s.pendlen := rfl
@[simp] theorem State.respond_pendv (r : Response) : (s.respond r).pendv = s.pendv := rfl
@[simp] theorem State.respond_tclosed (r : Response) : (s.respond r).tclosed = s.tclosed := rfl
@[simp] theorem State.respond_run (r : Response) : (s.respond r).run = s.run := rfl
@[simp] theorem State.respond_chken (r : Response) : (s.respond r).chken = s.chken := rfl
@[simp] theorem State.respond_cfg (r : Response) : (s.respond r).cfg = s.cfg := rfl
@[simp] theorem State.respond_cmdIn (r : Response) : (s.respond r).cmdIn = s.cmdIn := rfl
@[simp] theorem State.respond_rxIn (r : Response) : (s.respond r).rxIn = s.rxIn := rfl
@[simp] theorem State.respond_sched (r : Response) : (s.respond r).sched = s.sched := rfl
@[simp] theorem State.respond_rspOut (r : Response) : (s.respond r).rspOut = s.rspOut ++ [r] := rfl
@[simp] theorem State.respond_obsOut (r : Response) : (s.respond r).obsOut = s.obsOut := rfl

/-! ### An OBS event -/

@[simp] theorem State.emitObs_rxbuf (fr : List Byte) : (s.emitObs fr).rxbuf = s.rxbuf := rfl
@[simp] theorem State.emitObs_rxlen (fr : List Byte) : (s.emitObs fr).rxlen = s.rxlen := rfl
@[simp] theorem State.emitObs_pendbuf (fr : List Byte) : (s.emitObs fr).pendbuf = s.pendbuf := rfl
@[simp] theorem State.emitObs_pendlen (fr : List Byte) : (s.emitObs fr).pendlen = s.pendlen := rfl
@[simp] theorem State.emitObs_pendv (fr : List Byte) : (s.emitObs fr).pendv = s.pendv := rfl
@[simp] theorem State.emitObs_tclosed (fr : List Byte) : (s.emitObs fr).tclosed = s.tclosed := rfl
@[simp] theorem State.emitObs_run (fr : List Byte) : (s.emitObs fr).run = s.run := rfl
@[simp] theorem State.emitObs_chken (fr : List Byte) : (s.emitObs fr).chken = s.chken := rfl
@[simp] theorem State.emitObs_cfg (fr : List Byte) : (s.emitObs fr).cfg = s.cfg := rfl
@[simp] theorem State.emitObs_cmdIn (fr : List Byte) : (s.emitObs fr).cmdIn = s.cmdIn := rfl
@[simp] theorem State.emitObs_rxIn (fr : List Byte) : (s.emitObs fr).rxIn = s.rxIn := rfl
@[simp] theorem State.emitObs_sched (fr : List Byte) : (s.emitObs fr).sched = s.sched := rfl
@[simp] theorem State.emitObs_rspOut (fr : List Byte) : (s.emitObs fr).rspOut = s.rspOut := rfl
@[simp] theorem State.emitObs_obsOut (fr : List Byte) : (s.emitObs fr).obsOut = s.obsOut ++ [fr] := rfl

/-! ### The command stream -/

@[simp] theorem State.setCmdIn_rxbuf (l : List Byte) : (s.setCmdIn l).rxbuf = s.rxbuf := rfl
@[simp] theorem State.setCmdIn_rxlen (l : List Byte) : (s.setCmdIn l).rxlen = s.rxlen := rfl
@[simp] theorem State.setCmdIn_pendbuf (l : List Byte) : (s.setCmdIn l).pendbuf = s.pendbuf := rfl
@[simp] theorem State.setCmdIn_pendlen (l : List Byte) : (s.setCmdIn l).pendlen = s.pendlen := rfl
@[simp] theorem State.setCmdIn_pendv (l : List Byte) : (s.setCmdIn l).pendv = s.pendv := rfl
@[simp] theorem State.setCmdIn_tclosed (l : List Byte) : (s.setCmdIn l).tclosed = s.tclosed := rfl
@[simp] theorem State.setCmdIn_run (l : List Byte) : (s.setCmdIn l).run = s.run := rfl
@[simp] theorem State.setCmdIn_chken (l : List Byte) : (s.setCmdIn l).chken = s.chken := rfl
@[simp] theorem State.setCmdIn_cfg (l : List Byte) : (s.setCmdIn l).cfg = s.cfg := rfl
@[simp] theorem State.setCmdIn_cmdIn (l : List Byte) : (s.setCmdIn l).cmdIn = l := rfl
@[simp] theorem State.setCmdIn_rxIn (l : List Byte) : (s.setCmdIn l).rxIn = s.rxIn := rfl
@[simp] theorem State.setCmdIn_sched (l : List Byte) : (s.setCmdIn l).sched = s.sched := rfl
@[simp] theorem State.setCmdIn_rspOut (l : List Byte) : (s.setCmdIn l).rspOut = s.rspOut := rfl
@[simp] theorem State.setCmdIn_obsOut (l : List Byte) : (s.setCmdIn l).obsOut = s.obsOut := rfl

/-! ### The RX stream -/

@[simp] theorem State.setRxIn_rxbuf (l : List Symbol) : (s.setRxIn l).rxbuf = s.rxbuf := rfl
@[simp] theorem State.setRxIn_rxlen (l : List Symbol) : (s.setRxIn l).rxlen = s.rxlen := rfl
@[simp] theorem State.setRxIn_pendbuf (l : List Symbol) : (s.setRxIn l).pendbuf = s.pendbuf := rfl
@[simp] theorem State.setRxIn_pendlen (l : List Symbol) : (s.setRxIn l).pendlen = s.pendlen := rfl
@[simp] theorem State.setRxIn_pendv (l : List Symbol) : (s.setRxIn l).pendv = s.pendv := rfl
@[simp] theorem State.setRxIn_tclosed (l : List Symbol) : (s.setRxIn l).tclosed = s.tclosed := rfl
@[simp] theorem State.setRxIn_run (l : List Symbol) : (s.setRxIn l).run = s.run := rfl
@[simp] theorem State.setRxIn_chken (l : List Symbol) : (s.setRxIn l).chken = s.chken := rfl
@[simp] theorem State.setRxIn_cfg (l : List Symbol) : (s.setRxIn l).cfg = s.cfg := rfl
@[simp] theorem State.setRxIn_cmdIn (l : List Symbol) : (s.setRxIn l).cmdIn = s.cmdIn := rfl
@[simp] theorem State.setRxIn_rxIn (l : List Symbol) : (s.setRxIn l).rxIn = l := rfl
@[simp] theorem State.setRxIn_sched (l : List Symbol) : (s.setRxIn l).sched = s.sched := rfl
@[simp] theorem State.setRxIn_rspOut (l : List Symbol) : (s.setRxIn l).rspOut = s.rspOut := rfl
@[simp] theorem State.setRxIn_obsOut (l : List Symbol) : (s.setRxIn l).obsOut = s.obsOut := rfl

/-! ### The turns -/

@[simp] theorem State.setSched_rxbuf (l : List Agent) : (s.setSched l).rxbuf = s.rxbuf := rfl
@[simp] theorem State.setSched_rxlen (l : List Agent) : (s.setSched l).rxlen = s.rxlen := rfl
@[simp] theorem State.setSched_pendbuf (l : List Agent) : (s.setSched l).pendbuf = s.pendbuf := rfl
@[simp] theorem State.setSched_pendlen (l : List Agent) : (s.setSched l).pendlen = s.pendlen := rfl
@[simp] theorem State.setSched_pendv (l : List Agent) : (s.setSched l).pendv = s.pendv := rfl
@[simp] theorem State.setSched_tclosed (l : List Agent) : (s.setSched l).tclosed = s.tclosed := rfl
@[simp] theorem State.setSched_run (l : List Agent) : (s.setSched l).run = s.run := rfl
@[simp] theorem State.setSched_chken (l : List Agent) : (s.setSched l).chken = s.chken := rfl
@[simp] theorem State.setSched_cfg (l : List Agent) : (s.setSched l).cfg = s.cfg := rfl
@[simp] theorem State.setSched_cmdIn (l : List Agent) : (s.setSched l).cmdIn = s.cmdIn := rfl
@[simp] theorem State.setSched_rxIn (l : List Agent) : (s.setSched l).rxIn = s.rxIn := rfl
@[simp] theorem State.setSched_sched (l : List Agent) : (s.setSched l).sched = l := rfl
@[simp] theorem State.setSched_rspOut (l : List Agent) : (s.setSched l).rspOut = s.rspOut := rfl
@[simp] theorem State.setSched_obsOut (l : List Agent) : (s.setSched l).obsOut = s.obsOut := rfl

end Sys2Proof.Machine
end

