-- ==== Sys2Proof/Laws/Receiver.lean ====
section
/-! SUPPORT. What the parts of an `RXB` step can do: the detector, the append, the completion test, the dispatch. -/

namespace Sys2Proof.Machine

theorem detectMarker_ne {b : Byte} (s : State) (h : b ≠ Config.marker) : detectMarker b s = s := by
  simp [detectMarker, h]

theorem detectMarker_marker (s : State) : detectMarker Config.marker s = s.emptyRx := by
  simp [detectMarker]

theorem countUp_val (n : Fin 257) : (countUp n).val = min (n.val + 1) 256 := rfl

/-! ### The dispatch -/

@[simp] theorem dispatch_rxlen (fr : List Byte) (s : State) : (dispatch fr s).rxlen = 0 := rfl

@[simp] theorem dispatch_rxbuf (fr : List Byte) (s : State) : (dispatch fr s).rxbuf = s.rxbuf := by
  simp only [dispatch, State.emptyRx_rxbuf]; split <;> rfl

@[simp] theorem dispatch_run (fr : List Byte) (s : State) : (dispatch fr s).run = s.run := by
  simp only [dispatch, State.emptyRx_run]; split <;> rfl

@[simp] theorem dispatch_tclosed (fr : List Byte) (s : State) : (dispatch fr s).tclosed = s.tclosed := by
  simp only [dispatch, State.emptyRx_tclosed]; split <;> rfl

@[simp] theorem dispatch_chken (fr : List Byte) (s : State) : (dispatch fr s).chken = s.chken := by
  simp only [dispatch, State.emptyRx_chken]; split <;> rfl

@[simp] theorem dispatch_cfg (fr : List Byte) (s : State) : (dispatch fr s).cfg = s.cfg := by
  simp only [dispatch, State.emptyRx_cfg]; split <;> rfl

@[simp] theorem dispatch_cmdIn (fr : List Byte) (s : State) : (dispatch fr s).cmdIn = s.cmdIn := by
  simp only [dispatch, State.emptyRx_cmdIn]; split <;> rfl

@[simp] theorem dispatch_rxIn (fr : List Byte) (s : State) : (dispatch fr s).rxIn = s.rxIn := by
  simp only [dispatch, State.emptyRx_rxIn]; split <;> rfl

@[simp] theorem dispatch_sched (fr : List Byte) (s : State) : (dispatch fr s).sched = s.sched := by
  simp only [dispatch, State.emptyRx_sched]; split <;> rfl

@[simp] theorem dispatch_rspOut (fr : List Byte) (s : State) : (dispatch fr s).rspOut = s.rspOut := by
  simp only [dispatch, State.emptyRx_rspOut]; split <;> rfl

@[simp] theorem dispatch_obsOut (fr : List Byte) (s : State) : (dispatch fr s).obsOut = s.obsOut ++ [fr] := by
  simp only [dispatch, State.emptyRx_obsOut]; split <;> rfl

theorem dispatch_ack {fr : List Byte} {s : State} (h : byteAt fr 1 = s.cfg.ackOpcode) :
    dispatch fr s = (s.emitObs fr).emptyRx := by
  simp [dispatch, h]

theorem dispatch_reply {fr : List Byte} {s : State} (h : byteAt fr 1 ≠ s.cfg.ackOpcode) :
    dispatch fr s = ((s.emitObs fr).placePending fr).emptyRx := by
  simp [dispatch, h]

/-! ### The completion test -/

/-- The bytes the completion test reads, when the accumulation holds its values. -/
theorem completeRx_reads {s : State} {fr : List Byte} (h : s.rxbuf.readBytes 0 s.rxlen.val = some fr)
    (hn : 3 < s.rxlen.val) : s.rxbuf.read 1 = some (byteAt fr 1) ∧
      s.rxbuf.read (lengthOffset s.cfg (byteAt fr 1)) = some (byteAt fr (lengthOffset s.cfg (byteAt fr 1))) := by
  obtain ⟨hl, hr⟩ := Memory.readBytes_eq_some.1 h
  have key : ∀ i < s.rxlen.val, s.rxbuf.read i = some (byteAt fr i) := by
    intro i hi
    have := hr i hi
    rw [Nat.zero_add] at this
    rw [this, (byteAt_eq_iff (by omega)).2 rfl]
  refine ⟨key 1 (by omega), key _ ?_⟩
  rcases lengthOffset_cases s.cfg (byteAt fr 1) with h | h <;> omega

/-- The completion test when the accumulation holds its values and is complete: the dispatch. -/
theorem completeRx_complete {s : State} {fr : List Byte} (h : s.rxbuf.readBytes 0 s.rxlen.val = some fr)
    (hc : Complete s.cfg fr) : completeRx s = .next (dispatch fr s) := by
  obtain ⟨hl, -⟩ := Memory.readBytes_eq_some.1 h
  obtain ⟨h3, h255, hlen⟩ := hc
  obtain ⟨h1, h2⟩ := completeRx_reads h (by omega)
  have hr : 3 < s.rxlen.val ∧ s.rxlen.val ≤ Config.rxCap := ⟨by omega, by simp only [Config.rxCap]; omega⟩
  simp only [completeRx, if_pos hr, h1, h2, hlen, hl, if_true, h]

/-- The completion test when the accumulation holds its values and is not complete: nothing. -/
theorem completeRx_incomplete {s : State} {fr : List Byte} (h : s.rxbuf.readBytes 0 s.rxlen.val = some fr)
    (hc : ¬ Complete s.cfg fr) : completeRx s = .next s := by
  obtain ⟨hl, -⟩ := Memory.readBytes_eq_some.1 h
  by_cases hn : 3 < s.rxlen.val ∧ s.rxlen.val ≤ Config.rxCap
  · obtain ⟨h1, h2⟩ := completeRx_reads h hn.1
    have hne : (byteAt fr (lengthOffset s.cfg (byteAt fr 1))).toNat ≠ s.rxlen.val := by
      intro heq
      exact hc ⟨by omega, by have := hn.2; simp only [Config.rxCap] at this; omega, by omega⟩
    simp only [completeRx, if_pos hn, h1, h2, if_neg hne]
  · simp only [completeRx, if_neg hn]

/-- Everything the completion test can do when it goes on: nothing, or the dispatch of the whole accumulation. -/
theorem completeRx_next {s t : State} (h : completeRx s = .next t) :
    t = s ∨ ∃ fr, s.rxbuf.readBytes 0 s.rxlen.val = some fr ∧ Complete s.cfg fr ∧ t = dispatch fr s := by
  simp only [completeRx] at h
  split at h
  · next hn =>
    split at h
    · cases h
    · next op hop =>
      split at h
      · cases h
      · next len hlen =>
        split at h
        · next heq =>
          split at h
          · cases h
          · next fr hfr =>
            injection h with h
            refine .inr ⟨fr, hfr, ?_, h.symm⟩
            obtain ⟨h1, h2⟩ := completeRx_reads hfr hn.1
            obtain ⟨hl, -⟩ := Memory.readBytes_eq_some.1 hfr
            rw [hop] at h1
            obtain rfl := Option.some.inj h1
            rw [hlen] at h2
            obtain rfl := Option.some.inj h2
            have := hn.2
            simp only [Config.rxCap] at this
            exact ⟨by omega, by omega, by omega⟩
        · injection h with h
          exact .inl h.symm
  · injection h with h
    exact .inl h.symm

/-- When the completion test faults, some byte of the accumulation holds no value. -/
theorem completeRx_goes_on {s : State} (h : ∀ i < s.rxlen.val, s.rxlen.val ≤ 255 → (s.rxbuf.read i).isSome = true) :
    ∃ t, completeRx s = .next t := by
  by_cases hn : 3 < s.rxlen.val ∧ s.rxlen.val ≤ Config.rxCap
  · have hcap : s.rxlen.val ≤ 255 := hn.2
    obtain ⟨fr, hfr⟩ := Memory.readBytes_isSome (m := s.rxbuf) (off := 0) (k := s.rxlen.val) fun i hi => by
      rw [Nat.zero_add]; exact h i hi hcap
    by_cases hc : Complete s.cfg fr
    · exact ⟨_, completeRx_complete hfr hc⟩
    · exact ⟨_, completeRx_incomplete hfr hc⟩
  · exact ⟨s, by simp only [completeRx, if_neg hn]⟩

/-! ### The whole step -/

/-- Everything `RXB` can do when it goes on. -/
theorem execRxb_next {b : Byte} {s t : State} (h : execRxb b s = .next t) :
    s.run = true ∧ ∃ u, u = (detectMarker b s).appendRx b ∧
      (t = u ∨ ∃ fr, u.rxbuf.readBytes 0 u.rxlen.val = some fr ∧ Complete u.cfg fr ∧ t = dispatch fr u) := by
  simp only [execRxb] at h
  split at h
  · next hr => exact ⟨hr, _, rfl, completeRx_next h⟩
  · cases h

/-- The accumulation after the append of a byte that is not the marker. -/
theorem appendRx_readBytes {s : State} {acc : List Byte} (b : Byte) (hlt : s.rxlen.val < 255)
    (h : s.rxbuf.readBytes 0 s.rxlen.val = some acc) :
    (s.appendRx b).rxlen.val = s.rxlen.val + 1 ∧
      (s.appendRx b).rxbuf.readBytes 0 (s.appendRx b).rxlen.val = some (acc ++ [b]) := by
  have h1 : (s.appendRx b).rxlen.val = s.rxlen.val + 1 := by
    simp only [State.appendRx_rxlen, countUp_val]; omega
  refine ⟨h1, ?_⟩
  rw [h1, State.appendRx_rxbuf, if_pos (show s.rxlen.val < Config.rxCap from hlt)]
  exact Memory.readBytes_append b h

end Sys2Proof.Machine
end

