-- ==== Sys2Proof/Laws/Step.lean ====
section
/-! SUPPORT. Everything a command, an event, a fetch and a step can do, each said once. -/

namespace Sys2Proof.Machine

/-- A pure operation answers in every state, and its response is all it does. -/
theorem exec_pure (i : Instr) (s : State) (hp : isPure i = true) : ∃ r, exec i s = .next (s.respond r) := by
  cases i with
  | nop a => exact ⟨_, rfl⟩
  | venc a => simp only [exec, execVenc]; split <;> exact ⟨_, rfl⟩
  | vdec a => exact ⟨_, rfl⟩
  | chkv a => exact ⟨_, rfl⟩
  | fin a => simp only [exec, execFin]; split <;> exact ⟨_, rfl⟩
  | build a => simp only [exec, execBuild]; split <;> exact ⟨_, rfl⟩
  | parse a => simp only [exec, execParse]; split <;> exact ⟨_, rfl⟩
  | _ => simp [isPure] at hp

/-- Everything `PREAD` can do when it goes on: one response, which shows the mailbox. -/
theorem execPread_next {a : Args} {s t : State} (h : execPread a s = .next t) :
    ∃ r, t = s.respond r ∧
      (s.pendv = true → ∃ fr, s.pendbuf.readBytes 0 s.pendlen.val = some fr ∧ r = .ok 1#8 0#8 fr) ∧
      (s.pendv = false → r = .ok 0#8 0#8 []) := by
  simp only [execPread] at h
  split at h
  · next hp =>
    split at h
    · next fr hfr =>
      injection h with h
      exact ⟨_, h.symm, fun _ => ⟨fr, hfr, rfl⟩, fun h' => by simp [hp] at h'⟩
    · cases h
  · next hp =>
    injection h with h
    exact ⟨_, h.symm, fun h' => absurd h' hp, fun _ => rfl⟩

/-- Everything `RXEOF` can do when it goes on. -/
theorem execRxeof_next {b : Byte} {s t : State} (h : execRxeof b s = .next t) :
    s.run = true ∧ t = (s.setTclosed true).setRun false := by
  simp only [execRxeof] at h
  split at h
  · next hr => injection h with h; exact ⟨hr, h.symm⟩
  · cases h

/-- Everything a command can do when it goes on: one response and nothing else, or one of the five commands that write
state. -/
theorem exec_command_next {i : Instr} {s t : State} (h : exec i s = .next t) (hc : i.args?.isSome = true) :
    (∃ r, t = s.respond r) ∨ (∃ a, i = .start a) ∨ (∃ a, i = .stop a) ∨ (∃ a, i = .pclr a) ∨ (∃ a, i = .ctrlw a) ∨
      (∃ a, i = .reset a) := by
  by_cases hp : isPure i = true
  · obtain ⟨r, hr⟩ := exec_pure i s hp
    rw [hr] at h
    injection h with h
    exact .inl ⟨r, h.symm⟩
  · cases i with
    | reserved7 a => injection h with h; exact .inl ⟨_, h.symm⟩
    | reservedE a => injection h with h; exact .inl ⟨_, h.symm⟩
    | statr a => injection h with h; exact .inl ⟨_, h.symm⟩
    | pread a =>
      obtain ⟨r, hr, -⟩ := execPread_next (a := a) h
      exact .inl ⟨r, hr⟩
    | _ => simp [isPure, Instr.args?] at hp hc ⊢

/-- The detector changes nothing but `RXLEN`. -/
theorem detectMarker_eq (b : Byte) (s : State) : ∃ n, detectMarker b s = { s with rxlen := n } := by
  simp only [detectMarker]
  split
  · exact ⟨0, rfl⟩
  · exact ⟨s.rxlen, rfl⟩

/-- The only stop of the completion test. -/
theorem completeRx_stop (s : State) : (∃ t, completeRx s = .next t) ∨ completeRx s = .fault .noValue := by
  simp only [completeRx]
  split_ifs <;> (try split) <;> (try split) <;> (try split) <;> (try split) <;> simp

/-- The decoder of the RX port gives events. -/
theorem decodeSymbol_event (sym : Symbol) : (decodeSymbol sym).args? = none := by
  simp only [decodeSymbol]
  split <;> rfl

/-- Everything a turn can come to. -/
theorem fetch_cases (s : State) :
    (∃ i rest turns, s.sched = .foreground :: turns ∧ decodeRequest s.cmdIn = .instr i rest ∧
      fetch s = .run i { s with sched := turns, cmdIn := rest }) ∨
    (∃ rest turns, s.sched = .foreground :: turns ∧ decodeRequest s.cmdIn = .reservedBits rest ∧
      fetch s = .illegal { s with sched := turns, cmdIn := rest }) ∨
    (∃ sym rest turns, s.sched = .receiver :: turns ∧ s.run = true ∧ s.rxIn = sym :: rest ∧
      fetch s = .run (decodeSymbol sym) { s with sched := turns, rxIn := rest }) ∨
    fetch s = .idle { s with sched := s.sched.tail } := by
  rcases hs : s.sched with _ | ⟨agent, turns⟩
  · refine .inr (.inr (.inr ?_))
    simp only [fetch, hs]
    cases s
    simp only at hs
    subst hs
    rfl
  · cases agent with
    | foreground =>
      rcases hd : decodeRequest s.cmdIn with ⟨i, rest⟩ | rest | _
      · refine .inl ⟨i, rest, turns, rfl, rfl, ?_⟩
        have hd' : decodeRequest (s.setSched turns).cmdIn = .instr i rest := hd
        simp only [fetch, hs, fetchRequest, hd']
        rfl
      · refine .inr (.inl ⟨rest, turns, rfl, rfl, ?_⟩)
        have hd' : decodeRequest (s.setSched turns).cmdIn = .reservedBits rest := hd
        simp only [fetch, hs, fetchRequest, hd']
        rfl
      · refine .inr (.inr (.inr ?_))
        have hd' : decodeRequest (s.setSched turns).cmdIn = .incomplete := hd
        simp only [fetch, hs, fetchRequest, hd']
        rfl
    | receiver =>
      by_cases hr : (s.setSched turns).run = true
      · rcases hx : (s.setSched turns).rxIn with _ | ⟨sym, rest⟩
        · refine .inr (.inr (.inr ?_))
          simp only [fetch, hs, fetchSymbol, if_pos hr, hx]
          rfl
        · refine .inr (.inr (.inl ⟨sym, rest, turns, rfl, hr, hx, ?_⟩))
          simp only [fetch, hs, fetchSymbol, if_pos hr, hx]
          rfl
      · refine .inr (.inr (.inr ?_))
        simp only [fetch, hs, fetchSymbol, if_neg hr]
        rfl

/-- Everything a step can do when it goes on. -/
theorem step_next {s t : State} (h : step s = .next t) :
    (∃ i s', fetch s = .run i s' ∧ exec i s' = .next t) ∨
    (∃ s', fetch s = .illegal s' ∧ t = s'.respond (.error (.illegalCommand .reservedBits))) ∨
    fetch s = .idle t := by
  simp only [step] at h
  split at h
  · next i s' hf => exact .inl ⟨i, s', hf, h⟩
  · next s' hf => injection h with h; exact .inr (.inl ⟨s', hf, h.symm⟩)
  · next s' hf => injection h with h; subst h; exact .inr (.inr hf)

/-- One step of a run. -/
theorem run_next {k : Nat} {s s' : State} (h : step s = .next s') :
    Host.Core.run Sys2Proof.core (k + 1) s = Host.Core.run Sys2Proof.core k s' := by
  have h' : Sys2Proof.core.step s = .next s' := h
  simp only [Host.Core.run, h']

end Sys2Proof.Machine
end

