-- ==== Sys2Proof/Tests/Slice0.lean ====
section
/-! SUPPORT. The model's own tests: well-formedness, words written out from the encodings of 30_encoding.md, single steps
with the results of 95_test_vectors.md, and a witness for the hypotheses of every statement. -/

namespace Sys2Proof.Tests

open Sys2Proof.Machine

/-! ### Helpers -/

/-- Byte literals. -/
def bytes (l : List Nat) : List Byte := l.map (BitVec.ofNat 8)

/-- Operands. -/
def args (f : Bool) (a1 a0 : Nat) (data : List Nat) : Args :=
  { f := f, a1 := BitVec.ofNat 8 a1, a0 := BitVec.ofNat 8 a0, data := bytes data }

/-- No operands. -/
def none0 : Args := args false 0 0 []

/-- A state with a byte string accumulated and another in the mailbox. -/
def holding (run : Bool) (acc frame : List Nat) : State :=
  { State.reset with
    run := run
    rxbuf := Memory.writeBytes [] 0 (bytes acc)
    rxlen := Fin.ofNat 257 acc.length
    pendbuf := Memory.writeBytes [] 0 (bytes frame)
    pendlen := Fin.ofNat 256 frame.length
    pendv := !frame.isEmpty }

/-- The frame of V3.4. -/
def v34 : List Nat := [0xFF, 0x74, 0x06, 0xC8, 0x64, 0x21]

/-- Running, five bytes of V3.4 accumulated, the frame `FF 74 04 8F` in the mailbox. -/
def busy : State := holding true [0xFF, 0x74, 0x06, 0xC8, 0x64] [0xFF, 0x74, 0x04, 0x8F]

/-- The reset state with the prose transform. -/
def wholeForm : State := { State.reset with cfg := { Params.cfgV with vxform := .whole } }

/-- What a command answers on the port, as numbers. -/
def wire (i : Instr) (s : State) : List Nat :=
  match exec i s with
  | .next t => (t.rspOut.flatMap responseBytes).map BitVec.toNat
  | .fault _ => []
  | .refused _ => []

/-- A property of the next state. -/
def after (o : Host.Outcome State Fault Refusal) (p : State → Bool) : Bool :=
  match o with
  | .next t => p t
  | .fault _ => false
  | .refused _ => false

/-! ### Well-formedness -/

/-- 256 data bytes do not fit the count field (R80). -/
theorem test_wf_refuses_256_data_bytes : (Instr.chkv ⟨false, 0#8, 0#8, List.replicate 256 0#8⟩).wf = false := by
  simp only [Instr.wf, Instr.args?, Args.wf, List.length_replicate]
  decide

/-- 255 do. -/
theorem test_wf_accepts_255_data_bytes : (Instr.parse ⟨true, 1#8, 2#8, List.replicate 255 0#8⟩).wf = true := by
  simp only [Instr.wf, Instr.args?, Args.wf, List.length_replicate]
  decide

/-- Every event is well-formed. -/
theorem test_wf_accepts_events : (Instr.rxb 0xFF#8).wf = true ∧ (Instr.rxeof 0x12#8).wf = true := by decide

/-! ### Decoding: headers of V5, and further ones written out by R80's fields -/

/-- Headers `0x0…` to `0x3…`: sel, 000, f, a1, a0, n. -/
theorem test_decode_value_codec :
    decodeTableWord 32 0b0000_000_0_00000000_00000000_00000000 = some (.nop (args false 0 0 [])) ∧
    decodeTableWord 32 0b0001_000_0_11111000_11111000_00000000 = some (.venc (args false 0xF8 0xF8 [])) ∧
    decodeTableWord 32 0b0010_000_1_11100010_11110000_00000000 = some (.vdec (args true 0xE2 0xF0 [])) ∧
    decodeTableWord 32 0b0011_000_0_00000000_00000000_00000110 = some (.chkv (args false 0 0 [0, 0, 0, 0, 0, 0])) := by
  decide

/-- Headers `0x4…` to `0x7…`. -/
theorem test_decode_frame_codec :
    decodeTableWord 32 0b0100_000_0_00000000_00000000_00000011 = some (.fin (args false 0 0 [0, 0, 0])) ∧
    decodeTableWord 32 0b0101_000_1_10011001_01110100_00000010 = some (.build (args true 0x99 0x74 [0, 0])) ∧
    decodeTableWord 48 (0xBBAA * 2 ^ 32 + 0x51997402) = some (.build (args true 0x99 0x74 [0xAA, 0xBB])) ∧
    decodeTableWord 32 0b0110_000_1_00000000_00100001_00000001 = some (.parse (args true 0 0x21 [0])) ∧
    decodeTableWord 32 0b0111_000_0_00000000_00000000_00000000 = some (.reserved7 (args false 0 0 [])) := by
  decide

/-- Headers `0x8…` to `0xB…`. -/
theorem test_decode_receiver_and_mailbox :
    decodeTableWord 32 0b1000_000_0_00000000_00000000_00000000 = some (.start (args false 0 0 [])) ∧
    decodeTableWord 32 0b1001_000_0_00000000_00000000_00000000 = some (.stop (args false 0 0 [])) ∧
    decodeTableWord 32 0b1010_000_0_00000000_00000000_00000000 = some (.pclr (args false 0 0 [])) ∧
    decodeTableWord 32 0b1011_000_0_00000000_00000000_00000000 = some (.pread (args false 0 0 [])) := by
  decide

/-- Headers `0xC…` to `0xF…`. -/
theorem test_decode_control :
    decodeTableWord 32 0b1100_000_0_00000000_00000010_00000000 = some (.ctrlw (args false 0 2 [])) ∧
    decodeTableWord 32 0b1101_000_0_00000000_00000000_00000000 = some (.statr (args false 0 0 [])) ∧
    decodeTableWord 32 0b1110_000_0_00000000_00000000_00000010 = some (.reservedE (args false 0 0 [0, 0])) ∧
    decodeTableWord 32 0b1111_000_0_00000000_00000000_00000000 = some (.reset (args false 0 0 [])) := by
  decide

/-- RX symbols: bit 8 is `eof`, bits 7:0 the byte (R86). -/
theorem test_decode_symbols :
    decodeTableWord 16 0b0_01110100 = some (.rxb 0x74#8) ∧ decodeTableWord 16 0b0_11111111 = some (.rxb 0xFF#8) ∧
    decodeTableWord 16 0b1_00000000 = some (.rxeof 0x00#8) ∧ decodeTableWord 16 0b1_10100101 = some (.rxeof 0xA5#8) ∧
    decodeTableWord 16 0b10_00000000 = none := by
  decide

/-- Reserved header bits, each of the three (R83), and requests cut short (R80). -/
theorem test_decode_refuses :
    decodeRequest (bytes [0x02, 0, 0, 0]) = .reservedBits [] ∧ decodeRequest (bytes [0x14, 0, 0, 0]) = .reservedBits [] ∧
    decodeRequest (bytes [0x78, 0, 0, 1, 0xAA, 0xBB]) = .reservedBits (bytes [0xBB]) ∧
    decodeRequest (bytes [0x50, 0, 0x74]) = .incomplete ∧
    decodeRequest (bytes [0x50, 0, 0x74, 2, 0xC8]) = .incomplete := by
  decide

/-- The encoder gives V5.26's request. -/
theorem test_encode_build :
    encode (.build (args true 0x99 0x74 [0xC8, 0x64])) = .request (bytes [0x51, 0x99, 0x74, 0x02, 0xC8, 0x64]) ∧
    encode (.rxeof 0x00#8) = .symbol 0x100#9 := by
  decide

/-- The pseudo-operations of R90: V5.18 and V5.19's headers, and `RX [FF 74 04 8F]`'s symbols. -/
theorem test_pseudo_operations :
    encode chkOn = .request (bytes [0xC0, 0x00, 0x02, 0x00]) ∧ encode chkOff = .request (bytes [0xC0, 0x00, 0x00, 0x00]) ∧
    rxSymbols (bytes [0xFF, 0x74, 0x04, 0x8F]) = [0x0FF#9, 0x074#9, 0x004#9, 0x08F#9] ∧
    (rxSymbols (bytes [0xFF, 0x74, 0x04, 0x8F])).map decodeSymbol = rxRun (bytes [0xFF, 0x74, 0x04, 0x8F]) := by decide

/-! ### Single steps: the value codec -/

/-- V5.2 and V5.4. -/
theorem test_venc : wire (.venc (args false 0xF8 0xF8 [])) State.reset = [0x00, 0xE2, 0xF0, 0x00] ∧
    wire (.venc (args false 0x20 0x00 [])) State.reset = [0x51, 0x00, 0x00, 0x00] := by decide

/-- V1.10, V1.31 and V1.33, column W. -/
theorem test_venc_whole : wire (.venc (args false 0xFF 0x80 [])) wholeForm = [0x00, 0xFF, 0x00, 0x00] ∧
    wire (.venc (args false 0x3F 0xFF [])) wholeForm = [0x00, 0x7F, 0xFE, 0x00] ∧
    wire (.venc (args false 0x40 0x00 [])) wholeForm = [0x51, 0x00, 0x00, 0x00] := by decide

/-- V5.3, V1.36 and V1.45. -/
theorem test_vdec : wire (.vdec (args false 0xE2 0xF0 [])) State.reset = [0x00, 0xF8, 0xF8, 0x00] ∧
    wire (.vdec (args false 0xFF 0xFF [])) State.reset = [0x00, 0xFF, 0xFF, 0x00] ∧
    wire (.vdec (args false 0xFF 0x00 [])) State.reset = [0x00, 0xFF, 0x80, 0x00] := by decide

/-- V1.20, V1.38 and V1.41, column W. -/
theorem test_vdec_whole : wire (.vdec (args false 0xE2 0xF0 [])) wholeForm = [0x00, 0xF1, 0x78, 0x00] ∧
    wire (.vdec (args false 0x01 0x00 [])) wholeForm = [0x00, 0x00, 0x80, 0x00] ∧
    wire (.vdec (args false 0xFE 0xFE [])) wholeForm = [0x00, 0xFF, 0x7F, 0x00] := by decide

/-! ### Single steps: the frame codec -/

/-- V5.5, V2.2 and V2.20. -/
theorem test_chkv : wire (.chkv (args false 0 0 v34)) State.reset = [0x00, 0x01, 0x00, 0x00] ∧
    wire (.chkv (args false 0 0 [0xFF, 0x74, 0x06, 0xC8, 0x64])) State.reset = [0x00, 0x00, 0x21, 0x00] ∧
    wire (.chkv none0) State.reset = [0x00, 0x01, 0x00, 0x00] := by decide

/-- V2.19, V2.26 and V5.7. -/
theorem test_fin :
    wire (.fin (args false 0 0 [0xFF, 0x6F, 0xAA, 0x01, 0x02, 0xBB])) State.reset =
      [0x00, 0x00, 0x00, 0x06, 0xFF, 0x6F, 0x06, 0x01, 0x02, 0x95] ∧
    wire (.fin (args false 0 0 [0x12, 0x34, 0x56, 0x78])) State.reset = [0x00, 0x00, 0x00, 0x04, 0x12, 0x34, 0x04, 0x22] ∧
    wire (.fin (args false 0 0 [0xFF, 0x74, 0x00])) State.reset = [0x41, 0x00, 0x00, 0x00] := by decide

/-- V2.27 and V2.28: the short-header class, and the second application. -/
theorem test_fin_short :
    wire (.fin (args false 0 0 [0xFF, 0x0C, 0xAA, 0x01, 0xBB])) State.reset =
      [0x00, 0x00, 0x00, 0x05, 0xFF, 0x05, 0xAA, 0x01, 0x51] ∧
    wire (.fin (args false 0 0 [0xFF, 0x05, 0xAA, 0x01, 0x51])) State.reset =
      [0x00, 0x00, 0x00, 0x05, 0xFF, 0x05, 0x05, 0x01, 0xFE] := by decide

/-- V5.26 and V2.5. -/
theorem test_build :
    wire (.build (args true 0x99 0x74 [0xC8, 0x64])) State.reset =
      [0x00, 0x00, 0x00, 0x06, 0xFF, 0x74, 0x06, 0xC8, 0x64, 0x21] ∧
    wire (.build (args false 0 0x74 [])) State.reset = [0x00, 0x00, 0x00, 0x04, 0xFF, 0x74, 0x04, 0x8F] := by decide

/-- V2.12 and V2.14: the short-header class. -/
theorem test_build_short :
    wire (.build (args false 0 0x53 [1, 2])) State.reset = [0x00, 0x00, 0x00, 0x06, 0xFF, 0x06, 0x00, 0x01, 0x02, 0xFA] ∧
    wire (.build (args false 0 0x54 [1, 2, 3, 4, 5, 6, 7, 8])) State.reset =
      [0x00, 0x00, 0x00, 0x0C, 0xFF, 0x0C, 0x00, 0x01, 0x02, 0x03, 0x04, 0x05, 0x06, 0x07, 0x08, 0xFB] := by decide

/-- V5.9, V2.31, V2.35 and V2.34. -/
theorem test_parse :
    wire (.parse (args true 0 0x74 [0xFF, 0x74, 0x08, 0x00, 0x02, 0xC8, 0x64, 0x2D])) State.reset =
      [0x00, 0x00, 0x74, 0x04, 0x00, 0x02, 0xC8, 0x64] ∧
    wire (.parse (args true 0 0x21 [0xFF, 0x74, 0x08, 0x00, 0x02, 0xC8, 0x64, 0x2D])) State.reset = [0x12, 0, 0, 0] ∧
    wire (.parse (args true 0 0x21 [0xFF, 0x74, 0x08, 0x00, 0x02, 0xC9, 0x64, 0x2D])) State.reset = [0x14, 0, 0, 0] ∧
    wire (.parse (args false 0 0 [0xFF, 0x74, 0x08, 0x00, 0x02, 0xC9, 0x64, 0x2D])) (State.reset.setChken false) =
      [0x00, 0x00, 0x74, 0x04, 0x00, 0x02, 0xC9, 0x64] := by decide

/-- V2.36, V2.39, V2.45 and V2.46. -/
theorem test_parse_length :
    wire (.parse (args false 0 0 [0xFF, 0x74, 0x03])) State.reset = [0x11, 0, 0, 0] ∧
    wire (.parse (args true 0 0x21 [0xFF, 0x74, 0x09, 0x00, 0x00, 0x00])) State.reset = [0x13, 0, 0, 0] ∧
    wire (.parse (args false 0 0 [0xFF, 0x06, 0x00, 0x01, 0x02, 0xFA])) State.reset = [0x13, 0, 0, 0] ∧
    wire (.parse (args false 0 0 [0xFF, 0x0C, 0x00, 1, 2, 3, 4, 5, 6, 7, 8, 0xFB])) State.reset =
      [0x00, 0x00, 0x0C, 0x08, 1, 2, 3, 4, 5, 6, 7, 8] := by decide

/-! ### Single steps: the receiver -/

/-- V3.4's last byte: one dispatch, the mailbox overwritten, the buffer emptied. -/
theorem test_rxb_completes :
    after (exec (.rxb 0x21#8) busy) (fun t =>
      decide (t.obsOut = [bytes v34] ∧ t.pendbuf.readBytes 0 t.pendlen.val = some (bytes v34) ∧ t.pendlen.val = 6 ∧
        t.pendv = true ∧ t.rxlen.val = 0 ∧ t.run = true)) = true := by decide

/-- V3.3's last byte, V3.8's last byte, V3.6's fourth byte. -/
theorem test_rxb_ack_marker_collect :
    after (exec (.rxb 0xDA#8) (holding true [0xFF, 0x21, 0x04] [])) (fun t =>
      decide (t.obsOut = [bytes [0xFF, 0x21, 0x04, 0xDA]] ∧ t.pendv = false ∧ t.rxlen.val = 0)) = true ∧
    after (exec (.rxb 0xFF#8) (holding true [0xFF, 0x04, 0x04] [])) (fun t =>
      decide (t.obsOut = [] ∧ t.rxbuf.read 0 = some 0xFF#8 ∧ t.rxlen.val = 1)) = true ∧
    after (exec (.rxb 0x88#8) (holding true [0xFF, 0x74, 0x03] [])) (fun t =>
      decide (t.obsOut = [] ∧ t.rxbuf.read 3 = some 0x88#8 ∧ t.rxlen.val = 4)) = true := by decide

/-- V4 step 17, and "Stop and restart". -/
theorem test_rxeof : after (exec (.rxeof 0x12#8) busy) (fun t =>
    decide (t.run = false ∧ t.tclosed = true ∧ t.rxlen.val = 5 ∧ t.rspOut = [])) = true := by decide

/-- V4 step 20. -/
theorem test_start : after (exec (.start none0) (busy.setTclosed true)) (fun t =>
    decide (t.run = true ∧ t.tclosed = false ∧ t.rxlen.val = 0 ∧ t.pendv = true)) = true := by decide

/-- V4 step 19. -/
theorem test_stop : after (exec (.stop none0) busy) (fun t =>
    decide (t.run = false ∧ t.rxlen.val = 5 ∧ t.pendv = true)) = true := by decide

/-! ### Single steps: mailbox, control, status -/

/-- V5.16 and V5.17. -/
theorem test_pread : wire (.pread none0) (holding true [] v34) = [0x00, 0x01, 0x00, 0x06, 0xFF, 0x74, 0x06, 0xC8, 0x64, 0x21] ∧
    wire (.pread none0) State.reset = [0x00, 0x00, 0x00, 0x00] := by decide

/-- V4 step 13. -/
theorem test_pclr : after (exec (.pclr none0) busy) (fun t =>
    decide (t.pendv = false ∧ t.pendlen.val = 4 ∧ t.pendbuf = busy.pendbuf)) = true := by decide

/-- V4 steps 10 and 12. -/
theorem test_ctrlw :
    after (exec (.ctrlw (args false 0 0xFD [])) busy) (fun t =>
      decide (t.chken = false ∧ t.run = true ∧ t.pendv = true ∧ t.tclosed = false)) = true ∧
    after (exec (.ctrlw (args false 0 0x02 [])) (busy.setChken false)) (fun t => t.chken) = true := by decide

/-- V5.20 and V4 step 18. -/
theorem test_statr : wire (.statr none0) State.reset = [0x00, 0x00, 0x02, 0x00] ∧
    wire (.statr none0) ((busy.setTclosed true).setRun false) = [0x00, 0x00, 0x0E, 0x00] := by decide

/-- V4 step 22. -/
theorem test_reset : after (exec (.reset none0) ((busy.setTclosed true).setChken false)) (fun t =>
    decide (t.run = false ∧ t.chken = true ∧ t.pendv = false ∧ t.tclosed = false ∧ t.rxlen.val = 0 ∧
      t.rxbuf.read 0 = none ∧ t.pendbuf.read 0 = none)) = true := by decide

/-- V5.1, V5.22 and V5.23. -/
theorem test_nop_and_reserved : wire (.nop none0) busy = [0, 0, 0, 0] ∧ wire (.reserved7 none0) busy = [0x61, 0, 0, 0] ∧
    wire (.reservedE (args false 0 0 [0xAA, 0xBB])) busy = [0x61, 0, 0, 0] := by decide

/-- V3.4's OBS event (R88). -/
theorem test_obs_bytes : obsBytes (bytes v34) = bytes [0x06, 0xFF, 0x74, 0x06, 0xC8, 0x64, 0x21] := by decide

/-! ### Steps of the machine -/

/-- A table word placed and stepped: V5.2, and an RX marker. -/
theorem test_step_table_word :
    after (step (State.reset.withFetchWord 32 0x10F8F800)) (fun t =>
      decide (t.rspOut = [.ok 0xE2#8 0xF0#8 []] ∧ t.cmdIn = [] ∧ t.sched = [])) = true ∧
    after (step (State.reset.withFetchWord 16 0x0FF)) (fun t =>
      decide (t.rxlen.val = 1 ∧ t.rxbuf.read 0 = some 0xFF#8 ∧ t.rxIn = [])) = true := by decide

/-- V5.25: cause 2 before cause 1, and the data bytes consumed (R83). -/
theorem test_step_reserved_bits :
    after (step { State.reset with cmdIn := bytes [0x78, 0, 0, 1, 0xAA, 0x00], sched := [.foreground] }) (fun t =>
      decide (t.rspOut.flatMap responseBytes = bytes [0x62, 0, 0, 0] ∧ t.cmdIn = bytes [0x00])) = true := by decide

/-- The reset state's step does nothing: no turn is scheduled. -/
theorem test_step_reset : after (step State.reset) (fun t => decide (t = State.reset)) = true := by decide

/-! ### Witnesses: concrete states and operands that meet the hypotheses of each statement -/

/-- `busy` meets the invariant: an accumulation and a populated mailbox. -/
theorem busy_inv : Inv busy where
  rxWf := by decide
  pendWf := by decide
  rxHeld := by unfold RxHeld; decide
  rxMarkerFree := by unfold RxMarkerFree; decide
  mail := fun _ => ⟨bytes [0xFF, 0x74, 0x04, 0x8F], by decide, by
    unfold MailFrame NoMarkerAfterFirst
    decide⟩
  closedStopped := by decide
  obsSizes := by decide
  rspSizes := by decide

/-- A running receiver that has stored `n` times the byte `0x55`, and counted `m`. -/
def filled (n m : Nat) : State :=
  { State.reset with
    run := true, rxlen := Fin.ofNat 257 m, rxbuf := Memory.writeBytes [] 0 (List.replicate n 0x55#8) }

/-- It meets the invariant when what it counted is what it stored, or when it is full. -/
theorem filled_inv (n m : Nat) (hn : n ≤ 255) (hm : m ≤ 256) (h : min m 255 = n) : Inv (filled n m) where
  rxWf := Memory.writeBytes_wf _ (by decide) (by simpa [Config.rxCap] using hn)
  pendWf := by simp [filled, State.reset, Memory.wf]
  rxHeld := by
    intro i hi
    have hi' : i < n := by
      simp only [rxCount, filled, Config.rxCap, Fin.val_ofNat] at hi
      omega
    simp [filled, Memory.read_writeBytes, hi']
  rxMarkerFree := by
    intro i hi _
    have hi' : i < n := by
      simp only [rxCount, filled, Config.rxCap, Fin.val_ofNat] at hi
      omega
    simp [filled, Memory.read_writeBytes, hi', Config.marker]
  mail := by simp [filled, State.reset]
  closedStopped := by simp [filled, State.reset]
  obsSizes := by simp [filled, State.reset]
  rspSizes := by simp [filled, State.reset]

/-- EveryInstructionDecodesFromItsEncoding: a command of 255 data bytes, and an event. -/
theorem test_witness_encoding :
    (Instr.build ⟨true, 1#8, 2#8, List.replicate 255 7#8⟩).wf = true ∧
    (∃ enc, encode (Instr.build ⟨true, 1#8, 2#8, List.replicate 255 7#8⟩) = .request enc) ∧
    (Instr.rxeof 3#8).wf = true := by
  refine ⟨?_, ⟨_, rfl⟩, rfl⟩
  simp only [Instr.wf, Instr.args?, Args.wf, List.length_replicate]
  decide

/-- AcceptedBytesAreTheEncodingOfTheInstruction. -/
theorem test_witness_accepted :
    decodeRequest (bytes [0x30, 0, 0, 1, 0xAA, 0xBB]) = .instr (.chkv (args false 0 0 [0xAA])) (bytes [0xBB]) := by decide

/-- RequestFieldsStandWhereTheHeaderSays: both values of the reserved bits, no data and some, and a request cut short. -/
theorem test_witness_request_fields :
    ([] : List Byte).length = (0x00#8).toNat ∧ (bytes [1, 2]).length = (0x02#8).toNat ∧
    (0x51#8 : Byte).toNat / 2 % 8 = 0 ∧ (0x52#8 : Byte).toNat / 2 % 8 ≠ 0 ∧ (0x5E#8 : Byte).toNat / 2 % 8 ≠ 0 ∧
    (bytes [1]).length < (0x02#8).toNat ∧ (bytes [1, 2, 3]).length < 4 := by decide

/-- FieldsAnOperationDoesNotUseAreIgnored: operands that agree in the used fields and differ elsewhere. -/
theorem test_witness_ignored_fields :
    (args true 1 2 []).a1 = (args false 1 2 [5]).a1 ∧ (args true 1 2 []).a0 = (args false 1 2 [5]).a0 ∧
    (args true 1 2 [5]).data = (args false 3 4 [5]).data ∧ (args true 1 2 [5]).a0 = (args false 3 2 [5]).a0 ∧
    ((args false 1 2 [5]).f = (args false 3 4 [5]).f ∧ ((args false 1 2 [5]).f = true → (args false 1 2 [5]).a0 = 4#8)) ∧
    ((args true 1 2 [5]).f = (args true 3 2 [5]).f ∧
      ((args true 1 2 [5]).f = true → (args true 1 2 [5]).a0 = (args true 3 2 [5]).a0)) := by decide

/-- RxSymbolsAreByteOrEndOfStream and TurnWithNothingToDoOnlyPasses: a stopped receiver's turn with a symbol waiting, a
running one's with none, a foreground turn with half a request, and no turn. -/
theorem test_witness_idle_turns :
    (let s := { State.reset with sched := [.receiver], rxIn := [0x0FF#9] }
     s.sched = .receiver :: [] ∧ s.run = false) ∧
    (let s := { busy with sched := [.receiver] }; s.sched = .receiver :: [] ∧ s.run = true ∧ s.rxIn = []) ∧
    (let s := { busy with sched := [.foreground], cmdIn := bytes [0x50, 0] }
     s.sched = .foreground :: [] ∧ decodeRequest s.cmdIn = .incomplete) ∧
    State.reset.sched = [] := by decide

/-- ResponseHeaderFieldsAndErrorCodes: the largest response. -/
theorem test_witness_response : (List.replicate 255 0#8 : List Byte).length ≤ 255 := by
  rw [List.length_replicate]

/-- StepRunsTheDecodedInstruction: a whole request with a byte after it, and a symbol for a running receiver. -/
theorem test_witness_step :
    (let s := { busy with sched := [.foreground], cmdIn := bytes [0xB0, 0, 0, 0, 0x90] }
     s.sched = .foreground :: [] ∧ decodeRequest s.cmdIn = .instr (.pread none0) (bytes [0x90])) ∧
    (let s := { busy with sched := [.receiver], rxIn := [0x021#9, 0x100#9] }
     s.sched = .receiver :: [] ∧ s.run = true ∧ s.rxIn = 0x021#9 :: [0x100#9]) := by decide

/-- ReservedCommandsAnswerIllegalCommand: each of the three clauses' headers, with data. -/
theorem test_witness_reserved :
    (let s := { busy with sched := [.foreground], cmdIn := 0x78#8 :: 0#8 :: 0#8 :: 1#8 :: (bytes [0xAA] ++ bytes [0x90]) }
     s.sched = .foreground :: [] ∧ (bytes [0xAA]).length = (1#8 : Byte).toNat ∧ (0x78#8 : Byte).toNat / 2 % 8 ≠ 0) ∧
    ((0x70#8 : Byte).toNat / 2 % 8 = 0 ∧ (0x70#8 : Byte).toNat / 16 = 0x7) ∧
    ((0xE1#8 : Byte).toNat / 2 % 8 = 0 ∧ (0xE1#8 : Byte).toNat / 16 = 0xE) := by decide

/-- StepTakesFromTheHeadOfOneStream, NoStepChangesAParameter, StepKeepsTheInvariant and StepAlwaysGoesOn: a state of the
invariant whose step dispatches a frame, and one whose step answers a command. -/
theorem test_witness_steps :
    (let s := { busy with sched := [.receiver], rxIn := [0x021#9] }; Inv s ∧ ∃ t, step s = .next t) ∧
    (let s := { busy with sched := [.foreground], cmdIn := bytes [0x80, 0, 0, 0] }; Inv s ∧ ∃ t, step s = .next t) := by
  obtain ⟨h1, h2, h3, h4, h5, h6, h7, h8⟩ := busy_inv
  exact ⟨⟨⟨h1, h2, h3, h4, h5, h6, h7, h8⟩, _, rfl⟩, ⟨h1, h2, h3, h4, h5, h6, h7, h8⟩, _, rfl⟩

/-- PreadAnswersTheMailboxAndKeepsIt: a populated mailbox whose bytes hold values, and an empty one. -/
theorem test_witness_pread : (busy.pendv = true ∧ PendHeld busy) ∧ State.reset.pendv = false := by
  unfold PendHeld
  decide

/-- The signed value of `a1 : a0`, as VencAnswersTheEncodedValueOrRangeError's hypothesis computes it. -/
def signedOf (a : Args) : Int := (a.a1.toNat * 256 + a.a0.toNat : Int) - (if a.a1.toNat ≥ 128 then 65536 else 0)

/-- VencAnswersTheEncodedValueOrRangeError: the operands at and next to the four bounds, in a state of each transform. -/
theorem test_witness_venc :
    (State.reset.cfg.vxform = .perByte ∧ wholeForm.cfg.vxform = .whole) ∧
    signedOf (args false 0x1F 0xFF []) = 8191 ∧ signedOf (args false 0x20 0x00 []) = 8192 ∧
    signedOf (args false 0xE0 0x00 []) = -8192 ∧ signedOf (args false 0xDF 0xFF []) = -8193 ∧
    signedOf (args false 0x3F 0xFF []) = 16383 ∧ signedOf (args false 0x40 0x00 []) = 16384 ∧
    signedOf (args false 0xC0 0x00 []) = -16384 ∧ signedOf (args false 0xBF 0xFF []) = -16385 := by decide

/-- VdecAnswersTheDecodedValue: a state of each transform. -/
theorem test_witness_vdec : busy.cfg.vxform = .perByte ∧ wholeForm.cfg.vxform = .whole := by decide

/-- PerByteTransformRoundTripsAndAvoidsTheMarker and WholeTransformEmitsTheMarker: equal encodings at the bounds. -/
theorem test_witness_transforms :
    ((-8192 : Int) ≤ -8192 ∧ (-8192 : Int) ≤ 8191 ∧ encP (-8192) = encP (-8192)) ∧
    ((-16384 : Int) ≤ 16383 ∧ (16383 : Int) ≤ 16383 ∧ encW 16383 = encW 16383) := by decide

/-- FinPatchesLengthAndChecksum: three bytes, four bytes, a byte 1 of each class, a length in `SHORT_SET`, and a length
outside it that the caller's byte 2 equals, or does not equal. -/
theorem test_witness_fin :
    (args false 0 0 [0xFF, 0x74, 0x00]).wf = true ∧ (args false 0 0 [0xFF, 0x74, 0x00]).data.length < 4 ∧
    4 ≤ (args false 0 0 [0x12, 0x34, 0x56, 0x78]).data.length ∧
    byteAt (args false 0 0 [0x12, 0x34, 0x56, 0x78]).data 1 ∉ State.reset.cfg.shortSet ∧
    byteAt (args false 0 0 [0xFF, 0x0C, 0xAA, 0xBB]).data 1 ∈ State.reset.cfg.shortSet ∧
    BitVec.ofNat 8 (args false 0 0 [1, 0x0C, 3, 4, 5, 6, 7, 8, 9, 10, 11, 12]).data.length ∈ State.reset.cfg.shortSet ∧
    BitVec.ofNat 8 (args false 0 0 [0xFF, 0x0C, 0x04, 0xBB]).data.length ∉ State.reset.cfg.shortSet ∧
    (byteAt (args false 0 0 [0xFF, 0x0C, 0x04, 0xBB]).data 2).toNat = (args false 0 0 [0xFF, 0x0C, 0x04, 0xBB]).data.length ∧
    (byteAt (args false 0 0 [0xFF, 0x0C, 0xAA, 0xBB]).data 2).toNat ≠ (args false 0 0 [0xFF, 0x0C, 0xAA, 0xBB]).data.length := by
  decide

/-- The short-header case of FIN that R125 leaves out, by R122's pseudocode: `FF 0C 04 BB` becomes `FF 04 04 FF`. -/
theorem test_fin_short_finalised :
    wire (.fin (args false 0 0 [0xFF, 0x0C, 0x04, 0xBB])) State.reset = [0x00, 0x00, 0x00, 0x04, 0xFF, 0x04, 0x04, 0xFF] ∧
    Finalised State.reset.cfg (bytes [0xFF, 0x04, 0x04, 0xFF]) := by
  unfold Finalised
  decide

/-- BuildAssemblesAndFinalises: payloads of 251 and 252 bytes, and opcodes of each class. -/
theorem test_witness_build :
    (⟨false, 0#8, 0x6F#8, List.replicate 252 1#8⟩ : Args).wf = true ∧
    252 ≤ (List.replicate 252 1#8 : List Byte).length ∧ (List.replicate 251 1#8 : List Byte).length ≤ 251 ∧
    0x6F#8 ∉ State.reset.cfg.shortSet ∧ 0x54#8 ∈ State.reset.cfg.shortSet := by
  refine ⟨?_, ?_, ?_, by decide, by decide⟩ <;> simp only [Args.wf, List.length_replicate] <;> decide

/-- ParseChecksInOrderThenSplitsTheFrame: three bytes; four bytes with a wrong length, a wrong checksum, an opcode that is
not the expected one, and nothing wrong. -/
theorem test_witness_parse :
    (args true 0 0x21 [0xFF, 0x74, 0x03]).data.length < 4 ∧
    bytes [0x01, 0x02, 0x05, 0x09] = [0x01#8, 0x02#8, 0x05#8] ++ [] ++ [0x09#8] ∧ (0x05#8 : Byte).toNat ≠ 4 ∧
    (0x04#8 : Byte).toNat = (bytes [0x01, 0x02, 0x04, 0x09]).length ∧ xorFold (bytes [0x01, 0x02, 0x04, 0x09]) ≠ 0#8 ∧
    State.reset.chken = true ∧ (State.reset.setChken false).chken = false ∧
    xorFold (bytes [0x01, 0x02, 0x04, 0x07]) = 0#8 ∧ (0x02#8 : Byte) ≠ (args true 0 0x21 []).a0 ∧
    (0x02#8 : Byte) ∉ State.reset.cfg.shortSet ∧ (0x0C#8 : Byte) ∈ State.reset.cfg.shortSet := by decide

/-- ParseGivesBackWhatBuildWasGiven: two states with one configuration, a normal-class opcode, 251 bytes; and both ways to
meet the expectation. -/
theorem test_witness_round_trip :
    State.reset.cfg = busy.cfg ∧ 0x74#8 ∉ busy.cfg.shortSet ∧ (List.replicate 251 1#8 : List Byte).length ≤ 251 ∧
    (args false 0 0x21 []).f = false ∧ (args true 0 0x74 []).a0 = 0x74#8 := by
  refine ⟨by decide, by decide, ?_, by decide, by decide⟩
  rw [List.length_replicate]

/-- ShortHeaderFramesLoseTheirOpcode: two opcodes of `SHORT_SET`, one length in it and one outside it. -/
theorem test_witness_short_header :
    (0x53#8 : Byte) ∈ busy.cfg.shortSet ∧ (0x54#8 : Byte) ∈ busy.cfg.shortSet ∧
    BitVec.ofNat 8 (8 + 4) ∈ busy.cfg.shortSet ∧ BitVec.ofNat 8 (2 + 4) ∉ busy.cfg.shortSet := by decide

/-- FinIsIdempotentUnlessTheClassChanges: V2.26 in the normal class, V2.27 in the short-header class with a length outside
`SHORT_SET`, and a frame of twelve bytes. -/
theorem test_witness_fin_twice :
    byteAt (bytes [0x12, 0x34, 0x56, 0x78]) 1 ∉ busy.cfg.shortSet ∧
    byteAt (bytes [0xFF, 0x0C, 0xAA, 0x01, 0xBB]) 1 ∈ busy.cfg.shortSet ∧ BitVec.ofNat 8 5 ∉ busy.cfg.shortSet ∧
    BitVec.ofNat 8 12 ∈ busy.cfg.shortSet := by decide

/-- MarkerByteStartsANewAccumulation and RxeofStopsTheReceiver: a running and a stopped receiver. -/
theorem test_witness_running : busy.run = true ∧ State.reset.run = false := by decide

/-- `filled` holds what it stored. -/
theorem filled_readBytes (n m : Nat) : (filled n m).rxbuf.readBytes 0 n = some (List.replicate n 0x55#8) := by
  have h := Memory.readBytes_writeBytes [] 0 (List.replicate n 0x55#8)
  rwa [List.length_replicate] at h

/-- IncompleteByteIsAppended: the first byte, V3.6's fourth, the 255th of an accumulation, and bytes past it. -/
theorem test_witness_incomplete :
    (let s := holding true [] []
     s.run = true ∧ s.rxlen.val < 255 ∧ s.rxbuf.readBytes 0 s.rxlen.val = some [] ∧ ¬ Complete s.cfg ([] ++ [0x12#8])) ∧
    (let s := holding true [0xFF, 0x74, 0x03] []
     s.run = true ∧ s.rxlen.val < 255 ∧ s.rxbuf.readBytes 0 s.rxlen.val = some (bytes [0xFF, 0x74, 0x03]) ∧
       ¬ Complete s.cfg (bytes [0xFF, 0x74, 0x03] ++ [0x88#8])) ∧
    (let s := filled 254 254
     s.run = true ∧ s.rxlen.val < 255 ∧ s.rxbuf.readBytes 0 s.rxlen.val = some (List.replicate 254 0x55#8) ∧
       ¬ Complete s.cfg (List.replicate 254 0x55#8 ++ [0x55#8])) ∧
    ((filled 255 255).run = true ∧ 255 ≤ (filled 255 255).rxlen.val) ∧ 255 ≤ (filled 255 256).rxlen.val := by
  refine ⟨?_, ?_, ⟨rfl, by decide, filled_readBytes 254 254, ?_⟩, ⟨rfl, by decide⟩, by decide⟩
  · unfold Complete
    decide
  · unfold Complete
    decide
  · rintro ⟨-, -, h⟩
    have h1 : byteAt (List.replicate 254 0x55#8 ++ [0x55#8]) 1 = 0x55#8 := rfl
    have h2 : byteAt (List.replicate 254 0x55#8 ++ [0x55#8]) 2 = 0x55#8 := rfl
    have h3 : lengthOffset (filled 254 254).cfg 0x55#8 = 2 := by decide
    rw [h1, h3, h2] at h
    simp only [List.length_append, List.length_replicate] at h
    exact absurd h (by decide)

/-- CompletedFrameIsDispatched: a reply that overwrites a full mailbox, and an acknowledgement. -/
theorem test_witness_completed :
    (busy.run = true ∧ (0x21#8 : Byte) ≠ 0xFF#8 ∧
      busy.rxbuf.readBytes 0 busy.rxlen.val = some (bytes [0xFF, 0x74, 0x06, 0xC8, 0x64]) ∧
      bytes v34 = bytes [0xFF, 0x74, 0x06, 0xC8, 0x64] ++ [0x21#8] ∧ Complete busy.cfg (bytes v34) ∧
      byteAt (bytes v34) 1 ≠ busy.cfg.ackOpcode) ∧
    (let s := holding true [0xFF, 0x21, 0x04] v34
     s.run = true ∧ s.rxbuf.readBytes 0 s.rxlen.val = some (bytes [0xFF, 0x21, 0x04]) ∧
       Complete s.cfg (bytes [0xFF, 0x21, 0x04, 0xDA]) ∧ byteAt (bytes [0xFF, 0x21, 0x04, 0xDA]) 1 = s.cfg.ackOpcode) := by
  unfold Complete
  decide

/-- FramingStateMachineTransitions and DispatchedFramesHaveFourTo254Bytes: running states of the invariant with an empty
buffer, with one to complete, and full, before and past the saturation. -/
theorem test_witness_framing :
    (Inv (filled 0 0) ∧ (filled 0 0).rxlen.val = 0) ∧
    (Inv busy ∧ busy.rxbuf.readBytes 0 busy.rxlen.val = some (bytes [0xFF, 0x74, 0x06, 0xC8, 0x64]) ∧
      Complete busy.cfg (bytes [0xFF, 0x74, 0x06, 0xC8, 0x64] ++ [0x21#8]) ∧ ∃ t, exec (.rxb 0x21#8) busy = .next t) ∧
    (Inv (filled 254 254) ∧ (filled 254 254).rxlen.val < 255 ∧
      (filled 254 254).rxbuf.readBytes 0 254 = some (List.replicate 254 0x55#8)) ∧
    (Inv (filled 255 255) ∧ 255 ≤ (filled 255 255).rxlen.val) ∧ (Inv (filled 255 256) ∧ (filled 255 256).run = true) := by
  refine ⟨⟨filled_inv _ _ (by decide) (by decide) (by decide), rfl⟩, ⟨busy_inv, by decide, ?_, _, rfl⟩,
    ⟨filled_inv _ _ (by decide) (by decide) (by decide), by decide, filled_readBytes 254 254⟩,
    ⟨filled_inv _ _ (by decide) (by decide) (by decide), by decide⟩,
    filled_inv _ _ (by decide) (by decide) (by decide), rfl⟩
  unfold Complete
  decide

/-- RxbFrame: a step that dispatches and one that does not. -/
theorem test_witness_rxb_frame :
    (∃ t, exec (.rxb 0x21#8) busy = .next t ∧ t.obsOut = busy.obsOut ++ [bytes v34]) ∧
    (∃ t, exec (.rxb 0xFF#8) busy = .next t ∧ t.obsOut = busy.obsOut) := ⟨⟨_, rfl, by decide⟩, _, rfl, by decide⟩

/-- WellFormedFrameIsReceivedWhole: V3.4's frame, a short-header frame (V2.13) and an acknowledgement, offered to a running
receiver that has half a frame. -/
theorem test_witness_well_formed :
    (let s : State :=
       { busy with rxIn := rxSymbols (bytes v34) ++ [0x100#9], sched := List.replicate 6 .receiver ++ [.foreground] }
     s.run = true ∧ WellFormedFrame s.cfg (bytes v34) ∧ s.rxIn = rxSymbols (bytes v34) ++ [0x100#9] ∧
       s.sched = List.replicate (bytes v34).length .receiver ++ [.foreground] ∧
       byteAt (bytes v34) 1 ≠ s.cfg.ackOpcode) ∧
    WellFormedFrame busy.cfg (bytes [0xFF, 0x0C, 0x00, 1, 2, 3, 4, 5, 6, 7, 8, 0xFB]) ∧
    (WellFormedFrame busy.cfg (bytes [0xFF, 0x21, 0x04, 0xDA]) ∧
      byteAt (bytes [0xFF, 0x21, 0x04, 0xDA]) 1 = busy.cfg.ackOpcode) := by
  unfold WellFormedFrame Finalised MarkerFree NoMarkerAfterFirst
  decide

/-- The longest receivable frame (V2.15), 254 bytes. -/
def longest : List Byte := [0xFF#8, 0x6F#8, 0xFE#8] ++ List.replicate 250 0x01#8 ++ [0x6E#8]

/-- WellFormedFrameIsReceivedWhole at its longest: V2.15's frame, offered to a running receiver that has half a frame. -/
theorem test_witness_longest_frame :
    (let s : State :=
       { busy with rxIn := rxSymbols longest ++ [], sched := List.replicate longest.length .receiver ++ [] }
     s.run = true ∧ s.rxIn = rxSymbols longest ++ [] ∧ s.sched = List.replicate longest.length .receiver ++ []) ∧
    longest.length = 254 ∧ WellFormedFrame busy.cfg longest := by
  have hl : longest.length = 254 := by
    simp only [longest, List.length_append, List.length_replicate, List.length_cons, List.length_nil]
  have h1 : byteAt longest 1 = 0x6F#8 := rfl
  have h2 : byteAt longest 2 = 0xFE#8 := rfl
  have hx : xorFold (List.replicate 250 0x01#8) = 0#8 := xorFold_replicate_even 125 _
  refine ⟨⟨rfl, rfl, rfl⟩, hl, ⟨by omega, by omega, ?_, ?_⟩, rfl, ?_⟩
  · rw [h1, lengthOffset_not_mem (by decide), h2, hl]
    rfl
  · simp only [longest, xorFold_append, hx]
    decide
  · intro i hi h
    have hmem : ∀ b ∈ longest.tail, b ≠ Config.marker := by
      intro b hb
      have hb' : b ∈ [0x6F#8, 0xFE#8] ++ List.replicate 250 0x01#8 ++ [0x6E#8] := hb
      simp only [List.mem_append, List.mem_replicate, List.mem_cons, List.not_mem_nil, or_false] at hb'
      rcases hb' with ((rfl | rfl) | ⟨-, rfl⟩) | rfl <;> decide
    obtain ⟨j, rfl⟩ : ∃ j, i = j + 1 := ⟨i - 1, by omega⟩
    have hj : j < longest.tail.length := by rw [List.length_tail]; omega
    have := hmem _ (List.getElem_mem hj)
    rw [List.getElem_tail] at this
    rwa [byteAt_eq_getElem hi]

/-- BuiltFrameComesBackThroughTheReceiver: V2.3's opcode and payload, whose frame has no later marker. -/
theorem test_witness_built_frame :
    (let r := { busy with rxIn := rxSymbols (bytes v34), sched := List.replicate 6 .receiver }
     busy.run = true ∧ 0x74#8 ∉ busy.cfg.shortSet ∧ 0x74#8 ≠ busy.cfg.ackOpcode ∧ (bytes [0xC8, 0x64]).length ≤ 251 ∧
       exec (.build (args false 0 0x74 [0xC8, 0x64])) busy = .next (busy.respond (.ok 0#8 0#8 (bytes v34))) ∧
       NoMarkerAfterFirst (bytes v34) ∧ r.run = true ∧ r.cfg = busy.cfg ∧ r.rxIn = rxSymbols (bytes v34) ∧
       r.sched = List.replicate (bytes v34).length .receiver) := by
  refine ⟨by decide, by decide, by decide, by decide, rfl, ?_, by decide⟩
  unfold NoMarkerAfterFirst
  decide

/-- The statements over `exec i s = .next t`: RunChangesOnlyByStartStopEofReset, PendvIsSetByDispatchAndClearedByPclrReset,
TclosedIsSetByEofAndClearedByStartReset, ChkenIsWrittenByCtrlwResetOnlyAndIgnoredByRxbChkvFinBuild, NoStepChangesAParameter,
OneResponsePerCommandAndErrorsChangeNothing, CommandsCannotSeeTheReceiveBuffer and CommandsLeaveTheBuffersUnchanged. -/
theorem test_witness_exec_next :
    (∃ t, exec (.start none0) busy = .next t) ∧ (∃ t, exec (.rxeof 0#8) busy = .next t) ∧
    (∃ t, exec (.rxb 0x21#8) busy = .next t ∧ t.obsOut = busy.obsOut ++ [bytes v34]) ∧
    (∃ t, exec (.ctrlw none0) busy = .next t) ∧ (∃ t, exec (.reset none0) busy = .next t) ∧
    (∃ t, exec (.pread none0) busy = .next t) ∧ (Instr.pread none0).args?.isSome = true ∧
    (∃ t, exec (.fin none0) busy = .next t ∧ t.rspOut = busy.rspOut ++ [.error (.buildReject .short)]) ∧
    (State.reset.run = false ∧ ∃ t, step State.reset = .next t) :=
  ⟨⟨_, rfl⟩, ⟨_, rfl⟩, ⟨_, rfl, by decide⟩, ⟨_, rfl⟩, ⟨_, rfl⟩, ⟨_, rfl⟩, rfl, ⟨_, rfl, rfl⟩, rfl, _, rfl⟩

/-- PureOperationsDependOnOperandsAndParameters: two states with one configuration that differ in `CHKEN`, and two that
agree in it and differ in the buffers. -/
theorem test_witness_pure :
    isPure (.venc none0) = true ∧ busy.cfg = (State.reset.setChken false).cfg ∧
    busy.chken ≠ (State.reset.setChken false).chken ∧
    isPure (.parse none0) = true ∧ busy.chken = State.reset.chken ∧ busy ≠ State.reset := by decide

/-- StopsComeOnlyFromUnwrittenBytesOrAStoppedReceiver: a stopped receiver, a mailbox that holds no byte, and a running
receiver whose accumulation holds none. -/
theorem test_witness_stops :
    exec (.rxb 0#8) State.reset = .fault .receiverStopped ∧
    (let s := { busy with pendbuf := [] }
     s.pendv = true ∧ ¬ PendHeld s ∧ exec (.pread none0) s = .fault .noValue) ∧
    (let s := { busy with rxbuf := [] }
     s.run = true ∧ ¬ RxHeld s ∧ exec (.rxb 0x21#8) s = .fault .noValue) := by
  refine ⟨rfl, ⟨by decide, ?_, rfl⟩, by decide, ?_, rfl⟩
  · unfold PendHeld
    decide
  · unfold RxHeld
    decide

end Sys2Proof.Tests
end

section
/-! SUPPORT. The flags `RUN`, `PENDV` and `TCLOSED` (10_state.md R25, R26, R28): what each operation and event does to
them, and the statements that say so of the whole machine. -/

namespace Sys2Proof.Machine

/-! ### What an operation or event leaves -/

/-- What an operation or event other than `RXB` writes in the state elements: the five commands that write one, and
`RXEOF`; the others write none. -/
def stateWrite (i : Instr) (s : State) : State :=
  match i with
  | .start _ => (s.emptyRx.setTclosed false).setRun true
  | .stop _ => s.setRun false
  | .pclr _ => s.clearPending
  | .ctrlw a => writeCsr s a.a0
  | .reset _ => s.resetBlock
  | .rxeof _ => (s.setTclosed true).setRun false
  | _ => s

/-- Everything an operation or event other than `RXB` can do when it goes on: its write, and perhaps a response. -/
theorem exec_next_stateWrite {i : Instr} {s t : State} (h : exec i s = .next t) (hi : ∀ b, i ≠ .rxb b) :
    ∃ rsp, t = { stateWrite i s with rspOut := rsp } := by
  cases i with
  | start a | stop a | pclr a | ctrlw a | reset a =>
    injection h with h
    exact ⟨_, h.symm⟩
  | rxeof b =>
    obtain ⟨-, rfl⟩ := execRxeof_next (b := b) h
    exact ⟨_, rfl⟩
  | rxb b => exact absurd rfl (hi b)
  | _ =>
    obtain ⟨r, rfl⟩ : ∃ r, t = s.respond r := by simpa using exec_command_next h rfl
    exact ⟨_, rfl⟩

/-- Everything `RXB` can do outside the receive buffer when it goes on: nothing, or a dispatch. -/
theorem execRxb_next_dispatch {b : Byte} {s t : State} (h : execRxb b s = .next t) :
    ∃ buf len, t = { s with rxbuf := buf, rxlen := len } ∨
      ∃ fr, t = dispatch fr { s with rxbuf := buf, rxlen := len } := by
  obtain ⟨n, hn⟩ := detectMarker_eq b s
  obtain ⟨-, u, rfl, rfl | ⟨fr, -, -, rfl⟩⟩ := execRxb_next h <;> rw [hn]
  · exact ⟨_, _, .inl rfl⟩
  · exact ⟨_, _, .inr ⟨fr, rfl⟩⟩

/-! ### The flags and the ports under `RXB` -/

/-- A dispatch sets `PENDV` unless the frame is an acknowledgement, and never clears it (R153). -/
theorem dispatch_pendv_iff (fr : List Byte) (s : State) :
    (dispatch fr s).pendv = true ↔ s.pendv = true ∨ byteAt fr 1 ≠ s.cfg.ackOpcode := by
  by_cases hack : byteAt fr 1 = s.cfg.ackOpcode
  · simp [dispatch_ack hack, hack]
  · simp [dispatch_reply hack, hack]

theorem execRxb_run {b : Byte} {s t : State} (h : execRxb b s = .next t) : t.run = s.run := by
  obtain ⟨buf, len, rfl | ⟨fr, rfl⟩⟩ := execRxb_next_dispatch h
  · rfl
  · exact dispatch_run fr _

theorem execRxb_tclosed {b : Byte} {s t : State} (h : execRxb b s = .next t) : t.tclosed = s.tclosed := by
  obtain ⟨buf, len, rfl | ⟨fr, rfl⟩⟩ := execRxb_next_dispatch h
  · rfl
  · exact dispatch_tclosed fr _

theorem execRxb_rxIn {b : Byte} {s t : State} (h : execRxb b s = .next t) : t.rxIn = s.rxIn := by
  obtain ⟨buf, len, rfl | ⟨fr, rfl⟩⟩ := execRxb_next_dispatch h
  · rfl
  · exact dispatch_rxIn fr _

/-- `RXB` sets `PENDV` exactly by emitting a frame that is no acknowledgement (R25). -/
theorem execRxb_pendv_iff {b : Byte} {s t : State} (h : execRxb b s = .next t) :
    t.pendv = true ↔
      s.pendv = true ∨ ∃ fr, t.obsOut = s.obsOut ++ [fr] ∧ byteAt fr 1 ≠ s.cfg.ackOpcode := by
  obtain ⟨buf, len, rfl | ⟨fr, rfl⟩⟩ := execRxb_next_dispatch h
  · simp
  · simp [dispatch_pendv_iff]

/-! ### The RX port -/

/-- No operation and no event takes a symbol: the fetch does. -/
theorem exec_rxIn {i : Instr} {s t : State} (h : exec i s = .next t) : t.rxIn = s.rxIn := by
  cases i with
  | rxb b => exact execRxb_rxIn h
  | _ => obtain ⟨rsp, rfl⟩ := exec_next_stateWrite h nofun; rfl

/-- While `RUN = 0` the RX port consumes nothing (R28): a receiver turn is idle, and a foreground turn takes from the
command stream. -/
theorem step_rxIn_of_stopped {s t : State} (hr : s.run = false) (h : step s = .next t) : t.rxIn = s.rxIn := by
  obtain ⟨i, rest, turns, -, -, hf⟩ | ⟨rest, turns, -, -, hf⟩ | ⟨sym, rest, turns, -, hrun, -⟩ | hf := fetch_cases s
  · simp only [step, hf] at h
    simpa using exec_rxIn h
  · simp only [step, hf] at h
    injection h with h
    subst h
    rfl
  · rw [hr] at hrun
    cases hrun
  · simp only [step, hf] at h
    injection h with h
    subst h
    rfl

/-! ### The CSR -/

theorem csr_getLsbD_two (s : State) : (csr s).getLsbD 2 = s.pendv := by
  simp only [csr, BitVec.getLsbD_append]
  simp

theorem csr_getLsbD_three (s : State) : (csr s).getLsbD 3 = s.tclosed := by
  simp only [csr, BitVec.getLsbD_append]
  simp

/-! ### The statements -/

/-- Settles O41: `START`, `STOP`, `RXEOF` and `RESET` write `RUN`, and a stopped receiver's turn is idle. -/
theorem runChangesOnlyByStartStopEofReset : Obligations.RunChangesOnlyByStartStopEofReset := by
  refine ⟨fun i s t h => ?_, fun s t => step_rxIn_of_stopped⟩
  cases i with
  | rxb b => exact execRxb_run h
  | _ => obtain ⟨rsp, rfl⟩ := exec_next_stateWrite h nofun; rfl

/-- Settles O42: within `RXB` the dispatch sets `PENDV`; elsewhere only the writes of `PCLR` and `RESET` touch it. -/
theorem pendvIsSetByDispatchAndClearedByPclrReset : Obligations.PendvIsSetByDispatchAndClearedByPclrReset := by
  refine ⟨fun i s t h => ?_, fun s => ⟨csr_getLsbD_two s, rfl⟩⟩
  cases i with
  | rxb b => exact execRxb_pendv_iff h
  | _ => obtain ⟨rsp, rfl⟩ := exec_next_stateWrite h nofun; rfl

/-- Settles O43: `RXB` keeps `TCLOSED`; elsewhere only the writes of `RXEOF`, `START` and `RESET` touch it. -/
theorem tclosedIsSetByEofAndClearedByStartReset : Obligations.TclosedIsSetByEofAndClearedByStartReset := by
  refine ⟨fun i s t h => ?_, csr_getLsbD_three⟩
  cases i with
  | rxb b => exact execRxb_tclosed h
  | _ => obtain ⟨rsp, rfl⟩ := exec_next_stateWrite h nofun; rfl

end Sys2Proof.Machine
end

section
/-! SUPPORT. The value codec (40_value_codec.md): each transform's round trip for every integer, the parity of its bytes,
what `VENC` and `VDEC` answer, and the statements that say so. -/

namespace Sys2Proof.Machine

/-! ### Bytes -/

theorem eq_marker_iff {b : Byte} : b = Config.marker ↔ b.toNat = 255 :=
  BitVec.toNat_inj.symm

theorem ne_marker_of_even {b : Byte} (h : b.toNat % 2 = 0) : b ≠ Config.marker := by
  rw [Ne, eq_marker_iff]
  omega

/-- Masking with `FE` clears bit 0 and keeps the seven bits above it. -/
theorem and_fe_toNat (b : Byte) : (b &&& 0xFE#8).toNat = 2 * (b.toNat / 2) := by
  have hb := b.isLt
  have hmask : b &&& 0xFE#8 = b >>> 1 <<< 1 := (BitVec.shiftLeft_ushiftRight (x := b) (n := 1)).symm
  rw [hmask, BitVec.toNat_shiftLeft, BitVec.toNat_ushiftRight, Nat.shiftLeft_eq, Nat.shiftRight_eq_div_pow]
  omega

/-- The two bytes of a 16-bit pattern, put together again. -/
theorem hiByte_loByte_toNat (w : Half) : (hiByte w).toNat * 256 + (loByte w).toNat = w.toNat := by
  rw [hiByte_toNat, loByte_toNat]
  omega

/-! ### The PERBYTE transform -/

/-- Encoding keeps the lower 14 bits, and decoding reads them as a signed number: the round trip wraps any integer into
`-8192..8191`. -/
theorem decP_encP (v : Int) : decP (encP v).1 (encP v).2 = (v + 8192) % 16384 - 8192 := by
  obtain ⟨h0, h1⟩ := encP_toNat v
  rw [decP_eq]
  split <;> omega

theorem decP_encP_of_range {v : Int} (hlo : -8192 ≤ v) (hhi : v ≤ 8191) : decP (encP v).1 (encP v).2 = v := by
  rw [decP_encP]
  omega

theorem encP_even (v : Int) : (encP v).1.toNat % 2 = 0 ∧ (encP v).2.toNat % 2 = 0 := by
  obtain ⟨h0, h1⟩ := encP_toNat v
  omega

theorem encP_injOn {v w : Int} (hv : -8192 ≤ v ∧ v ≤ 8191) (hw : -8192 ≤ w ∧ w ≤ 8191) (h : encP v = encP w) :
    v = w := by
  rw [← decP_encP_of_range hv.1 hv.2, h, decP_encP_of_range hw.1 hw.2]

theorem decP_and_fe (b0 b1 : Byte) : decP (b0 &&& 0xFE#8) (b1 &&& 0xFE#8) = decP b0 b1 := by
  rw [decP_eq, decP_eq, and_fe_toNat, and_fe_toNat]
  split <;> split <;> omega

/-! ### The WHOLE transform -/

/-- Encoding keeps the lower 15 bits, and decoding reads them as a signed number: the round trip wraps any integer into
`-16384..16383`. -/
theorem decW_encW (v : Int) : decW (encW v).1 (encW v).2 = (v + 16384) % 32768 - 16384 := by
  obtain ⟨h0, h1⟩ := encW_toNat v
  rw [decW_eq]
  split <;> omega

theorem decW_encW_eq_self_iff (v : Int) : decW (encW v).1 (encW v).2 = v ↔ -16384 ≤ v ∧ v ≤ 16383 := by
  rw [decW_encW]
  omega

theorem encW_injOn {v w : Int} (hv : -16384 ≤ v ∧ v ≤ 16383) (hw : -16384 ≤ w ∧ w ≤ 16383) (h : encW v = encW w) :
    v = w := by
  rw [← (decW_encW_eq_self_iff v).mpr hv, h, (decW_encW_eq_self_iff w).mpr hw]

theorem encW_fst_ne_marker (v : Int) : (encW v).1 ≠ Config.marker := by
  obtain ⟨h0, -⟩ := encW_toNat v
  exact ne_marker_of_even (by omega)

theorem encW_snd_eq_marker_iff (v : Int) : (encW v).2 = Config.marker ↔ v / 128 % 256 = 255 := by
  obtain ⟨-, h1⟩ := encW_toNat v
  rw [eq_marker_iff]
  omega

/-! ### `VENC` and `VDEC` -/

theorem signedOperand_eq (a : Args) :
    signedOperand a = (a.a1.toNat * 256 + a.a0.toNat : Int) - (if a.a1.toNat ≥ 128 then 65536 else 0) :=
  half_toInt a.a1 a.a0

theorem exec_venc_of_range {a : Args} {s : State}
    (h : vmin s.cfg.vxform ≤ signedOperand a ∧ signedOperand a ≤ vmax s.cfg.vxform) :
    exec (.venc a) s =
      reply (encodeValue s.cfg.vxform (signedOperand a)).2 (encodeValue s.cfg.vxform (signedOperand a)).1 [] s :=
  if_neg (by omega)

theorem exec_venc_of_out_of_range {a : Args} {s : State}
    (h : signedOperand a < vmin s.cfg.vxform ∨ vmax s.cfg.vxform < signedOperand a) :
    exec (.venc a) s = raise .rangeError s :=
  if_pos h

/-! ### The statements -/

/-- Settles O21: the operand is `signedOperand`, and each transform's bytes as numbers are `encP_toNat` and
`encW_toNat`. -/
theorem vencAnswersTheEncodedValueOrRangeError : Obligations.VencAnswersTheEncodedValueOrRangeError := by
  intro s a v hv
  rw [← signedOperand_eq] at hv
  subst hv
  refine ⟨rfl, fun hx => ⟨fun hlo hhi => ?_, fun hout => ?_⟩, fun hx => ⟨fun hlo hhi => ?_, fun hout => ?_⟩⟩
  · obtain ⟨h0, h1⟩ := encP_toNat (signedOperand a)
    refine ⟨_, _, h0, h1, ?_⟩
    rw [exec_venc_of_range (by rw [hx]; exact ⟨hlo, hhi⟩), hx]
    rfl
  · exact exec_venc_of_out_of_range (by rw [hx]; exact hout)
  · obtain ⟨h0, h1⟩ := encW_toNat (signedOperand a)
    refine ⟨_, _, h0, h1, ?_⟩
    rw [exec_venc_of_range (by rw [hx]; exact ⟨hlo, hhi⟩), hx]
    rfl
  · exact exec_venc_of_out_of_range (by rw [hx]; exact hout)

/-- Settles O22: the response holds the two bytes of `u16` of the decoded value, whose arithmetic reading is `decP_eq` or
`decW_eq`. -/
theorem vdecAnswersTheDecodedValue : Obligations.VdecAnswersTheDecodedValue := by
  intro s a
  refine ⟨rfl, _, _, decodeValue s.cfg.vxform a.a0 a.a1, ?bytes, ?perByte, ?whole, rfl⟩
  case bytes =>
    rw [← u16_toNat]
    exact_mod_cast hiByte_loByte_toNat _
  case perByte =>
    intro hx
    rw [hx]
    exact decP_eq a.a0 a.a1
  case whole =>
    intro hx
    rw [hx]
    exact decW_eq a.a0 a.a1

/-- Settles O23: from the round trip over all integers and the even bytes. -/
theorem perByteTransformRoundTripsAndAvoidsTheMarker : Obligations.PerByteTransformRoundTripsAndAvoidsTheMarker := by
  refine ⟨fun v => decP_encP_of_range, fun v _ _ => ?even, fun v w hv hv' hw hw' => encP_injOn ⟨hv, hv'⟩ ⟨hw, hw'⟩,
    by decide, fun b0 b1 => (decP_and_fe b0 b1).symm, fun v _ _ => encP_toNat v, fun b0 b1 => ⟨_, rfl, ?arith⟩⟩
  case even =>
    obtain ⟨h0, h1⟩ := encP_even v
    exact ⟨h0, h1, ne_marker_of_even h0, ne_marker_of_even h1⟩
  case arith =>
    rw [decP_eq, and_fe_toNat]
    split <;> split <;> omega

/-- Settles O24: from the round trip over all integers; the second byte is the marker when bits 14:7 of the value are all
ones. -/
theorem wholeTransformEmitsTheMarker : Obligations.WholeTransformEmitsTheMarker := by
  refine ⟨fun v _ _ => decW_encW_eq_self_iff v, decW_encW 16384, fun v hlo hhi => ?marker, encW_fst_ne_marker, by decide,
    fun v w hv hv' hw hw' => encW_injOn ⟨hv, hv'⟩ ⟨hw, hw'⟩⟩
  case marker =>
    rw [encW_snd_eq_marker_iff]
    omega

end Sys2Proof.Machine
end

section
/-! SUPPORT. The frame codec (41_frame_codec.md): the fold bit by bit, the patcher's checksum, what `CHKV`, `FIN`, `BUILD`
and `PARSE` answer, and the statements that say so. -/

namespace Sys2Proof.Machine

/-! ### The fold and the checksum -/

/-- Bit `k` of the fold is the parity of the bytes that have it (R120). -/
theorem xorFold_getLsbD (s : List Byte) (k : Nat) :
    (xorFold s).getLsbD k = decide ((s.filter fun b => b.getLsbD k).length % 2 = 1) := by
  induction s with
  | nil => simp
  | cons b s ih =>
    rw [xorFold_cons, BitVec.getLsbD_xor, ih, List.filter_cons]
    cases b.getLsbD k with
    | false => simp
    | true =>
      simp only [if_true, List.length_cons, Bool.true_xor, ← decide_not, decide_eq_decide]
      omega

/-- The fold as checksum: appended to a byte string, it makes the whole fold to 0 (R74). -/
theorem xorFold_append_xorFold (s : List Byte) : xorFold (s ++ [xorFold s]) = 0#8 := by
  simp

/-- The patcher puts the fold of all bytes before the last in the last place (R122). -/
theorem patch_eq_append_xorFold (p : Params) {s : List Byte} (h : 0 < s.length) :
    ∃ body, patch p s = body ++ [xorFold body] := by
  refine ⟨(s.set (lengthOffset p (byteAt s 1)) (BitVec.ofNat 8 s.length)).take (s.length - 1), ?_⟩
  have hlast : s.length - 1 + 1 = s.length := by omega
  simp only [patch, List.set_eq_take_append_cons_drop (i := s.length - 1), List.length_set, hlast]
  simp [h]

theorem xorFold_patch (p : Params) {s : List Byte} (h : 0 < s.length) : xorFold (patch p s) = 0#8 := by
  obtain ⟨body, hbody⟩ := patch_eq_append_xorFold p h
  rw [hbody, xorFold_append_xorFold]

/-! ### `FIN` and `BUILD` -/

theorem assemble_length (op : Byte) (payload : List Byte) : (assemble op payload).length = payload.length + 4 := by
  simp [assemble]

theorem finalise_of_four_le (p : Params) {s : List Byte} (h : 4 ≤ s.length) : finalise p s = .ok (patch p s) :=
  if_neg (Nat.not_lt.mpr h)

/-- An assembled frame is never too short for `FIN` (R126). -/
theorem finalise_assemble (p : Params) (op : Byte) (payload : List Byte) :
    finalise p (assemble op payload) = .ok (patch p (assemble op payload)) :=
  finalise_of_four_le p (by rw [assemble_length]; omega)

theorem xorFold_patch_assemble (p : Params) (op : Byte) (payload : List Byte) :
    xorFold (patch p (assemble op payload)) = 0#8 :=
  xorFold_patch p (by rw [assemble_length]; omega)

theorem buildFrame_of_long (p : Params) (op : Byte) {payload : List Byte} (h : 252 ≤ payload.length) :
    buildFrame p op payload = .error (.buildReject .long) :=
  if_pos (by simp only [Config.maxFrame]; omega)

theorem buildFrame_of_fits (p : Params) (op : Byte) {payload : List Byte} (h : payload.length ≤ 251) :
    buildFrame p op payload = finalise p (assemble op payload) :=
  if_neg (by simp only [Config.maxFrame]; omega)

theorem exec_build_of_long {a : Args} (s : State) (h : 252 ≤ a.data.length) :
    exec (.build a) s = raise (.buildReject .long) s := by
  simp only [exec, execBuild, buildFrame_of_long _ _ h]

/-- `BUILD` is `FIN` of the assembled frame (R123). -/
theorem exec_build_eq_exec_fin {a b : Args} (s : State) (h : a.data.length ≤ 251) (hb : b.data = assemble a.a0 a.data) :
    exec (.build a) s = exec (.fin b) s := by
  simp only [exec, execBuild, execFin, buildFrame_of_fits _ _ h, hb]

theorem exec_build_of_fits {a : Args} (s : State) (h : a.data.length ≤ 251) :
    exec (.build a) s = reply 0#8 0#8 (patch s.cfg (assemble a.a0 a.data)) s := by
  simp only [exec, execBuild, buildFrame_of_fits _ _ h, finalise_assemble]

/-- The one-byte length field holds the size of a frame that fits (R72). -/
theorem frameSize_toNat {k : Nat} (h : k ≤ 251) : (BitVec.ofNat 8 (k + 4)).toNat = k + 4 := by
  rw [BitVec.toNat_ofNat]
  omega

/-- A built frame of the normal class: the opcode stays at offset 1 and the length stands at offset 2 (R121, R122). -/
theorem patch_assemble_of_normal {p : Params} {op : Byte} (payload : List Byte) (h : op ∉ p.shortSet) :
    ∃ c, patch p (assemble op payload) =
      [Config.marker, op, BitVec.ofNat 8 (payload.length + 4)] ++ payload ++ [c] := by
  rw [assemble, patch_split]
  simp only [if_neg h]
  exact ⟨_, rfl⟩

/-- A built frame of the short-header class: the length replaces the opcode at offset 1 (R121, R122). -/
theorem patch_assemble_of_short {p : Params} {op : Byte} (payload : List Byte) (h : op ∈ p.shortSet) :
    ∃ c, patch p (assemble op payload) =
      [Config.marker, BitVec.ofNat 8 (payload.length + 4), 0#8] ++ payload ++ [c] := by
  rw [assemble, patch_split]
  simp only [if_pos h]
  exact ⟨_, rfl⟩

/-! ### `PARSE` -/

/-- The length byte of a frame taken apart: byte 1 in the short-header class, byte 2 in the normal class (R7). -/
theorem byteAt_lengthOffset_split (p : Params) (d0 op d2 : Byte) (rest : List Byte) :
    byteAt (d0 :: op :: d2 :: rest) (lengthOffset p op) = if op ∈ p.shortSet then op else d2 := by
  by_cases h : op ∈ p.shortSet
  · simp [lengthOffset_mem h, h, byteAt]
  · simp [lengthOffset_not_mem h, h, byteAt]

theorem parseFrame_of_short (p : Params) (chken f : Bool) (expected : Byte) {s : List Byte} (h : s.length < 4) :
    parseFrame p chken f expected s = .error (.malformedFrame .tooShort) :=
  if_pos h

/-- The parser on a frame taken apart (R124): its length is no longer in question, and the byte it compares, the opcode
and the payload are the frame's own parts. -/
theorem parseFrame_split (p : Params) (chken f : Bool) (expected d0 op d2 c : Byte) (payload s : List Byte)
    (hs : s = [d0, op, d2] ++ payload ++ [c]) :
    parseFrame p chken f expected s =
      if (if op ∈ p.shortSet then op else d2).toNat ≠ s.length then .error (.malformedFrame .lenMismatch)
      else if chken ∧ xorFold s ≠ 0#8 then .error (.malformedFrame .checksum)
      else if f ∧ op ≠ expected then .error (.malformedFrame .opcodeMismatch)
      else .ok (op, payload) := by
  have hlen : ¬ s.length < Config.minFrame := by simp [hs, Config.minFrame]
  have hop : byteAt s 1 = op := by simp [hs, byteAt]
  have hdeclared : byteAt s (lengthOffset p op) = if op ∈ p.shortSet then op else d2 := by
    rw [hs]
    exact byteAt_lengthOffset_split p d0 op d2 _
  have hpayload : payloadOf s = payload := by rw [hs, payloadOf_split]
  simp only [parseFrame, if_neg hlen, hop, hdeclared, hpayload]

theorem exec_parse_of_error {a : Args} {s : State} {e : CmdError}
    (h : parseFrame s.cfg s.chken a.f a.a0 a.data = .error e) : exec (.parse a) s = raise e s := by
  simp only [exec, execParse, h]

theorem exec_parse_of_ok {a : Args} {s : State} {op : Byte} {payload : List Byte}
    (h : parseFrame s.cfg s.chken a.f a.a0 a.data = .ok (op, payload)) : exec (.parse a) s = reply 0#8 op payload s := by
  simp only [exec, execParse, h]

/-- A test made only while a flag is set passes when the flag is clear or the bytes agree. -/
theorem flaggedTest_passes {v : Bool} {x y : Byte} (h : v = false ∨ x = y) : ¬ (v ∧ x ≠ y) := by
  simpa [or_iff_not_imp_left] using h

/-- A frame that declares its own length, and folds to 0 where the checksum is looked at, parses to its parts (R124). -/
theorem exec_parse_of_sound {a : Args} {s : State} {d0 op d2 c : Byte} {payload : List Byte}
    (hs : a.data = [d0, op, d2] ++ payload ++ [c])
    (hlen : (if op ∈ s.cfg.shortSet then op else d2).toNat = a.data.length)
    (hsum : s.chken = false ∨ xorFold a.data = 0#8) (hop : a.f = false ∨ op = a.a0) :
    exec (.parse a) s = reply 0#8 op payload s := by
  apply exec_parse_of_ok
  rw [parseFrame_split _ _ _ _ d0 op d2 c payload _ hs, if_neg (not_not.mpr hlen), if_neg (flaggedTest_passes hsum),
    if_neg (flaggedTest_passes hop)]

/-! ### The statements -/

/-- Settles O25: the fold bit by bit, and its independence of the order. -/
theorem chkvAnswersTheXorOfAllBytes : Obligations.ChkvAnswersTheXorOfAllBytes := by
  refine fun s a => ⟨rfl, xorFold a.data, fun k _ => xorFold_getLsbD a.data k, rfl, fun a' hperm => ?_⟩
  simp only [exec, execChkv, xorFold_perm hperm]

/-- Settles O27: a payload that fits gives the patched assembled frame, whose header bytes are the class's. -/
theorem buildAssemblesAndFinalises : Obligations.BuildAssemblesAndFinalises := by
  refine fun s a _ => ⟨rfl, exec_build_of_long s, fun hfits => ?_⟩
  have hfin := (exec_build_eq_exec_fin (b := { f := false, a1 := 0#8, a0 := 0#8, data := assemble a.a0 a.data })
    s hfits rfl).symm
  have hxor := xorFold_patch_assemble s.cfg a.a0 a.data
  have hbuild := exec_build_of_fits s hfits
  by_cases hclass : a.a0 ∈ s.cfg.shortSet
  · obtain ⟨c, hframe⟩ := patch_assemble_of_short a.data hclass
    exact ⟨_, _, c, _, hframe, hbuild, hfin, hxor, fun h => absurd hclass h, fun _ => ⟨frameSize_toNat hfits, rfl⟩⟩
  · obtain ⟨c, hframe⟩ := patch_assemble_of_normal a.data hclass
    exact ⟨_, _, c, _, hframe, hbuild, hfin, hxor, fun _ => ⟨rfl, frameSize_toNat hfits⟩, fun h => absurd h hclass⟩

/-- Settles O28: each clause picks one branch of the parser on the frame taken apart. -/
theorem parseChecksInOrderThenSplitsTheFrame : Obligations.ParseChecksInOrderThenSplitsTheFrame := by
  refine fun s a _ => ⟨rfl, fun h => exec_parse_of_error (parseFrame_of_short _ _ _ _ h), ?_⟩
  rintro d0 op d2 c payload _ hdata rfl
  have hparse := parseFrame_split s.cfg s.chken a.f a.a0 d0 op d2 c payload _ hdata
  refine ⟨fun hlen => exec_parse_of_error ?lenMismatch, fun hlen hchk hsum => exec_parse_of_error ?checksum,
    fun hlen hsum hf hop => exec_parse_of_error ?opcodeMismatch, exec_parse_of_sound hdata⟩
  case lenMismatch => rw [hparse, if_pos hlen]
  case checksum => rw [hparse, if_neg (not_not.mpr hlen), if_pos ⟨hchk, hsum⟩]
  case opcodeMismatch => rw [hparse, if_neg (not_not.mpr hlen), if_neg (flaggedTest_passes hsum), if_pos ⟨hf, hop⟩]

/-- Settles O29: a built frame of the normal class keeps its opcode at offset 1, declares its own length and folds to 0. -/
theorem parseGivesBackWhatBuildWasGiven : Obligations.ParseGivesBackWhatBuildWasGiven := by
  intro s s' a hcfg hclass hfits
  refine ⟨_, exec_build_of_fits s hfits, fun p hp hop => ?_⟩
  obtain ⟨c, hframe⟩ := patch_assemble_of_normal a.data hclass
  refine exec_parse_of_sound (hp.trans hframe) ?declared (.inr ?folds) (hop.imp_right Eq.symm)
  case declared =>
    rw [hcfg, if_neg hclass, frameSize_toNat hfits, hp, patch_length, assemble_length]
  case folds => rw [hp, xorFold_patch_assemble]

end Sys2Proof.Machine
end

section
/-! SUPPORT. The framing state machine (42_frame_receiver.md R162): what each row of its table leaves as one equation, the
bound of R159 on a completed frame, and the statements of the transitions. -/

namespace Sys2Proof.Machine

/-! ### The accumulation -/

theorem appendRx_read_rxlen {s : State} (b : Byte) (hlt : s.rxlen.val < 255) :
    (s.appendRx b).rxbuf.read s.rxlen.val = some b := by
  rw [State.appendRx_rxbuf, if_pos (show s.rxlen.val < Config.rxCap from hlt), Memory.read_write_same]

/-- Past the 255th byte nothing is stored and the count stands at 256 (R23). -/
theorem appendRx_of_full {s : State} (b : Byte) (hfull : 255 ≤ s.rxlen.val) :
    s.appendRx b = { s with rxlen := 256 } := by
  have hlen : countUp s.rxlen = 256 := Fin.ext (by rw [countUp_val]; show _ = 256; omega)
  rw [State.appendRx, hlen, if_neg (show ¬ s.rxlen.val < Config.rxCap from Nat.not_lt.mpr hfull)]

/-- Where the accumulation holds its values and is not full, it is a byte string. -/
theorem RxHeld.readBytes {s : State} (h : RxHeld s) (hlt : s.rxlen.val < 255) :
    ∃ acc, s.rxbuf.readBytes 0 s.rxlen.val = some acc :=
  Memory.readBytes_isSome fun i hi => by
    rw [Nat.zero_add]
    exact h i (by simp only [rxCount, Config.rxCap]; omega)

/-- R34 (b) carries over to the accumulation with a byte other than the marker appended. -/
theorem RxMarkerFree.noMarkerAfterFirst_append {s : State} {b : Byte} {acc : List Byte} (h : RxMarkerFree s)
    (hlt : s.rxlen.val < 255) (hacc : s.rxbuf.readBytes 0 s.rxlen.val = some acc) (hb : b ≠ Config.marker) :
    NoMarkerAfterFirst (acc ++ [b]) := by
  obtain ⟨hlen, hread⟩ := Memory.readBytes_eq_some.1 hacc
  intro i hi h1
  rw [Ne, ← byteAt_eq_iff hi]
  by_cases hold : i < acc.length
  · rw [List.getElem?_append_left hold, ← hread i (hlen ▸ hold), Nat.zero_add]
    exact h i (by simp only [rxCount, Config.rxCap]; omega) h1
  · have hi' : i = acc.length := by simp only [List.length_append, List.length_singleton] at hi; omega
    simpa [hi'] using hb

/-- R159: the byte that declares the length is no marker, so a complete accumulation is not 255 bytes long. -/
theorem Complete.length_le {p : Params} {fr : List Byte} (hc : Complete p fr) (hm : NoMarkerAfterFirst fr) :
    fr.length ≤ 254 := by
  obtain ⟨hmin, hmax, hdeclared⟩ := hc
  have hoff := lengthOffset_cases p (byteAt fr 1)
  have hne := hm (lengthOffset p (byteAt fr 1)) (by omega) (by omega)
  rw [Ne, eq_marker_iff] at hne
  omega

theorem dispatch_pendv (fr : List Byte) (s : State) :
    (dispatch fr s).pendv = (s.pendv || decide (byteAt fr 1 ≠ s.cfg.ackOpcode)) := by
  rw [Bool.eq_iff_iff, dispatch_pendv_iff, Bool.or_eq_true, decide_eq_true_iff]

theorem dispatch_pendlen {fr : List Byte} {s : State} (hlen : fr.length ≤ 255) (hack : byteAt fr 1 ≠ s.cfg.ackOpcode) :
    (dispatch fr s).pendlen.val = fr.length := by
  rw [dispatch_reply hack]
  exact Nat.mod_eq_of_lt (by omega)

/-- A dispatched frame that is no acknowledgement is what stands in the mailbox (R153). -/
theorem dispatch_readBytes {fr : List Byte} {s : State} (hlen : fr.length ≤ 255)
    (hack : byteAt fr 1 ≠ s.cfg.ackOpcode) :
    (dispatch fr s).pendbuf.readBytes 0 (dispatch fr s).pendlen.val = some fr := by
  rw [dispatch_pendlen hlen hack, dispatch_reply hack]
  exact Memory.readBytes_writeBytes s.pendbuf 0 fr

/-! ### The rows of the table -/

theorem exec_rxeof_of_running {s : State} (b : Byte) (hrun : s.run = true) :
    exec (.rxeof b) s = .next ((s.setTclosed true).setRun false) := if_pos hrun

theorem exec_rxb_of_running {s : State} (b : Byte) (hrun : s.run = true) :
    exec (.rxb b) s = completeRx ((detectMarker b s).appendRx b) := if_pos hrun

/-- No completion test is made before the fourth byte or past the 255th (R152). -/
theorem completeRx_untested {s : State} (h : s.rxlen.val ≤ 3 ∨ 255 < s.rxlen.val) : completeRx s = .next s :=
  if_neg (by simp only [Config.rxCap]; omega)

theorem exec_rxb_marker {s : State} (hrun : s.run = true) :
    exec (.rxb Config.marker) s = .next (s.emptyRx.appendRx Config.marker) := by
  rw [exec_rxb_of_running _ hrun, detectMarker_marker]
  exact completeRx_untested (.inl (show 1 ≤ 3 by decide))

theorem exec_rxb_full {s : State} {b : Byte} (hrun : s.run = true) (hb : b ≠ Config.marker)
    (hfull : 255 ≤ s.rxlen.val) : exec (.rxb b) s = .next { s with rxlen := 256 } := by
  rw [exec_rxb_of_running _ hrun, detectMarker_ne s hb, appendRx_of_full b hfull]
  exact completeRx_untested (.inr (show 255 < 256 by decide))

theorem exec_rxb_incomplete {s : State} {b : Byte} {acc : List Byte} (hrun : s.run = true) (hb : b ≠ Config.marker)
    (hlt : s.rxlen.val < 255) (hacc : s.rxbuf.readBytes 0 s.rxlen.val = some acc)
    (hc : ¬ Complete s.cfg (acc ++ [b])) : exec (.rxb b) s = .next (s.appendRx b) := by
  rw [exec_rxb_of_running _ hrun, detectMarker_ne s hb]
  exact completeRx_incomplete (appendRx_readBytes b hlt hacc).2 hc

theorem exec_rxb_complete {s : State} {b : Byte} {acc : List Byte} (hrun : s.run = true) (hb : b ≠ Config.marker)
    (hlt : s.rxlen.val < 255) (hacc : s.rxbuf.readBytes 0 s.rxlen.val = some acc)
    (hc : Complete s.cfg (acc ++ [b])) : exec (.rxb b) s = .next (dispatch (acc ++ [b]) (s.appendRx b)) := by
  rw [exec_rxb_of_running _ hrun, detectMarker_ne s hb]
  exact completeRx_complete (appendRx_readBytes b hlt hacc).2 hc

/-! ### The statements -/

/-- Settles O36: the rows of `RXB` are told apart by the byte, the room left and the completion test; the row of a complete
frame is bounded by R159. -/
theorem framingStateMachineTransitions : Obligations.FramingStateMachineTransitions := by
  refine ⟨fun s a => ⟨_, rfl, rfl, rfl, rfl⟩, fun s a => ⟨_, rfl, rfl, rfl, rfl⟩, fun s a => ⟨_, rfl, rfl, rfl, rfl⟩,
    fun s b hrun => ⟨_, exec_rxeof_of_running b hrun, rfl, rfl, rfl, rfl⟩, fun s b hinv hrun => ?_⟩
  by_cases hb : b = Config.marker
  · subst hb
    exact ⟨_, exec_rxb_marker hrun, hrun,
      fun _ => ⟨rfl, appendRx_read_rxlen (s := s.emptyRx) _ (show 0 < 255 by decide), rfl, rfl⟩,
      fun h => absurd rfl h, fun h => absurd rfl h, fun h => absurd rfl h⟩
  by_cases hfull : 255 ≤ s.rxlen.val
  · exact ⟨_, exec_rxb_full hrun hb hfull, hrun, fun h => absurd h hb, fun _ h => by omega,
      fun _ _ => ⟨rfl, rfl, rfl⟩, fun _ h => by omega⟩
  have hlt : s.rxlen.val < 255 := Nat.lt_of_not_le hfull
  obtain ⟨acc, hacc⟩ := hinv.rxHeld.readBytes hlt
  obtain ⟨hlen, -⟩ := appendRx_readBytes b hlt hacc
  have hsize : (acc ++ [b]).length = s.rxlen.val + 1 := by
    rw [List.length_append, (Memory.readBytes_eq_some.1 hacc).1, List.length_singleton]
  by_cases hc : Complete s.cfg (acc ++ [b])
  · have hmin : 3 < (acc ++ [b]).length := hc.1
    have hmax := hc.length_le (hinv.rxMarkerFree.noMarkerAfterFirst_append hlt hacc hb)
    refine ⟨_, exec_rxb_complete hrun hb hlt hacc hc, (dispatch_run _ _).trans hrun, fun h => absurd h hb,
      fun _ h => by omega, fun _ h => by omega, fun _ _ acc' hacc' => ?_⟩
    obtain rfl : acc = acc' := Option.some.inj (hacc.symm.trans hacc')
    refine ⟨fun h => absurd hc h, fun _ => ⟨by omega, by omega, rfl, dispatch_obsOut _ _, dispatch_pendv _ _,
      dispatch_readBytes (s := s.appendRx b) (by omega), fun hack => ?_⟩⟩
    rw [dispatch_ack (s := s.appendRx b) hack]
    exact ⟨rfl, rfl⟩
  · refine ⟨_, exec_rxb_incomplete hrun hb hlt hacc hc, hrun, fun h => absurd h hb,
      fun _ hempty => ⟨by omega, ?_, rfl⟩, fun _ h => by omega, fun _ _ acc' hacc' => ?_⟩
    · have hread := appendRx_read_rxlen b hlt
      rwa [hempty] at hread
    · obtain rfl : acc = acc' := Option.some.inj (hacc.symm.trans hacc')
      exact ⟨fun _ => ⟨hlen, rfl, rfl⟩, fun h => absurd h hc⟩

/-- Settles O16: `STOP` is the write `RUN <- 0` and its response (R156). -/
theorem stopOnlyClearsRun : Obligations.StopOnlyClearsRun := fun _ _ => ⟨rfl, rfl⟩

/-- Settles O35: the row of `RXEOF`. -/
theorem rxeofStopsTheReceiver : Obligations.RxeofStopsTheReceiver := fun _ b hrun => exec_rxeof_of_running b hrun

end Sys2Proof.Machine
end

section
/-! SUPPORT. The mailbox, control and status operations (43_mailbox.md): what `PREAD` answers as one equation per case, the
CSR as a number, its writable bit, and the statements of `NOP`, `PCLR`, `PREAD`, `CTRLW` and `STATR`. -/

namespace Sys2Proof.Machine

/-! ### `PREAD` -/

theorem exec_pread_of_empty (a : Args) {s : State} (hp : s.pendv = false) :
    exec (.pread a) s = .next (s.respond (.ok 0#8 0#8 [])) := by
  simp [exec, execPread, hp, reply]

theorem exec_pread_of_populated (a : Args) {s : State} {fr : List Byte} (hp : s.pendv = true)
    (hfr : s.pendbuf.readBytes 0 s.pendlen.val = some fr) :
    exec (.pread a) s = .next (s.respond (.ok 1#8 0#8 fr)) := by
  simp [exec, execPread, hp, hfr, reply]

/-- The frame of a mailbox whose bytes hold values can be read whole (R24, R33). -/
theorem PendHeld.readBytes {s : State} (h : PendHeld s) : ∃ fr, s.pendbuf.readBytes 0 s.pendlen.val = some fr :=
  Memory.readBytes_isSome fun i hi => by simpa using h i hi

/-! ### The CSR -/

/-- The flags by their weights (R27, R173). -/
theorem csr_toNat (s : State) :
    (csr s).toNat = s.run.toNat + 2 * s.chken.toNat + 4 * s.pendv.toNat + 8 * s.tclosed.toNat := by
  unfold csr
  generalize s.run = run, s.chken = chken, s.pendv = pendv, s.tclosed = tclosed
  revert run chken pendv tclosed
  decide

/-- Bit 1 of the byte written, read arithmetically, is the only one that counts (R27, R172). -/
theorem writeCsr_eq (s : State) (v : Byte) : writeCsr s v = s.setChken (decide (v.toNat / 2 % 2 = 1)) := by
  rw [writeCsr, BitVec.getLsbD, Nat.testBit_eq_decide_div_mod_eq, Nat.pow_one]

/-! ### The statements -/

/-- Settles O18: the bytes of a populated mailbox read as one string, and the response leaves the mailbox as it was, so a
second `PREAD` meets the same case. -/
theorem preadAnswersTheMailboxAndKeepsIt : Obligations.PreadAnswersTheMailboxAndKeepsIt := by
  refine fun s a => ⟨rfl, exec_pread_of_empty a, fun hp hheld => ?_⟩
  obtain ⟨fr, hfr⟩ := hheld.readBytes
  obtain ⟨hlen, hbytes⟩ := Memory.readBytes_eq_some.1 hfr
  refine ⟨fr, hlen, fun i hi => by simpa using hbytes i hi, _, exec_pread_of_populated a hp hfr, rfl, fun a' => ?_⟩
  exact exec_pread_of_populated (s := s.respond _) a' hp hfr

/-- Settles O14: `NOP` is its response (R175). -/
theorem nopAnswersZerosAndChangesNothing : Obligations.NopAnswersZerosAndChangesNothing := fun _ _ => ⟨rfl, rfl⟩

/-- Settles O17: `PCLR` is the write `PENDV <- 0` and its response, after which `PREAD` finds the mailbox empty. -/
theorem pclrOnlyClearsPendv : Obligations.PclrOnlyClearsPendv :=
  fun _ _ => ⟨rfl, _, rfl, rfl, rfl, fun a' => exec_pread_of_empty a' rfl⟩

/-- Settles O19: `CTRLW` is the write of the CSR's one writable bit and its response. -/
theorem ctrlwWritesOnlyChken : Obligations.CtrlwWritesOnlyChken := by
  refine fun s a => ⟨rfl, ?_⟩
  rw [exec, execCtrlw, writeCsr_eq]
  rfl

/-- Settles O20: `STATR` answers the CSR. -/
theorem statrReadsTheFlagsAtTheirBits : Obligations.StatrReadsTheFlagsAtTheirBits :=
  fun s _ => ⟨rfl, csr s, csr_toNat s, rfl⟩

end Sys2Proof.Machine
end

section
/-! SUPPORT. Responses and errors (60_exceptions.md R190 to R199): what a command adds to the ports, that an event
gives no response, the header of an error as a number, and the statement that says so. -/

namespace Sys2Proof.Machine

/-! ### What a command answers -/

/-- A command answers once: from the state as it stands, or, with success, from one it has written outside the output
ports. -/
theorem exec_command_respond {i : Instr} {s t : State} (h : exec i s = .next t) (hc : i.args?.isSome = true) :
    (∃ r, t = s.respond r) ∨
      ∃ u : State, t = u.respond (.ok 0#8 0#8 []) ∧ u.rspOut = s.rspOut ∧ u.obsOut = s.obsOut := by
  obtain hr | ⟨a, rfl⟩ | ⟨a, rfl⟩ | ⟨a, rfl⟩ | ⟨a, rfl⟩ | ⟨a, rfl⟩ := exec_command_next h hc
  · exact .inl hr
  all_goals
    injection h with h
    exact .inr ⟨_, h.symm, rfl, rfl⟩

/-- An event gives no response. -/
theorem exec_event_rspOut {i : Instr} {s t : State} (h : exec i s = .next t) (he : i.args? = none) :
    t.rspOut = s.rspOut := by
  cases i with
  | rxb b =>
    obtain ⟨buf, len, rfl | ⟨fr, rfl⟩⟩ := execRxb_next_dispatch h
    · rfl
    · exact dispatch_rspOut fr _
  | rxeof b =>
    obtain ⟨-, rfl⟩ := execRxeof_next (b := b) h
    rfl
  | _ => cases he

/-! ### The header of an error -/

/-- No error has the code of success (R190). -/
theorem errCode_errorKind_pos (e : CmdError) : 0 < (errCode (errorKind e)).toNat := by
  cases e <;> simp [errorKind, errCode]

/-- The header of an error is the byte of code and cause, and zeros below (R81, R199). -/
theorem responseHeader_error (e : CmdError) :
    responseHeader (.error e) = joinBytes (errCode (errorKind e) ++ errorCause e) 0#8 0#8 0#8 := rfl

/-- Code and cause by their weights (R81). -/
theorem responseHeader_error_toNat (e : CmdError) :
    (responseHeader (.error e)).toNat =
      (errCode (errorKind e)).toNat * 2 ^ 28 + (errorCause e).toNat * 2 ^ 24 := by
  rw [responseHeader_error, joinBytes_toNat, BitVec.toNat_append,
    ← Nat.shiftLeft_add_eq_or_of_lt (errorCause e).isLt, Nat.shiftLeft_eq, BitVec.toNat_ofNat, Nat.zero_mod]
  omega

/-! ### The statement -/

/-- Settles O46: a command's one response leaves the rest alone where it is an error, since a command that writes state
answers with success. -/
theorem oneResponsePerCommandAndErrorsChangeNothing : Obligations.OneResponsePerCommandAndErrorsChangeNothing := by
  refine ⟨fun i s t h => ?_, fun e => ?_⟩
  · cases hargs : i.args? with
    | none => exact exec_event_rspOut h hargs
    | some a =>
      obtain ⟨r, rfl⟩ | ⟨u, rfl, hrsp, hobs⟩ := exec_command_respond h (Option.isSome_of_eq_some hargs)
      · exact ⟨rfl, r, rfl, fun e he => he ▸ rfl⟩
      · exact ⟨hobs, _, congrArg (· ++ _) hrsp, nofun⟩
  · have hcode := errCode_errorKind_pos e
    rw [responseHeader_error_toNat]
    exact ⟨by omega, by omega, rfl⟩

end Sys2Proof.Machine
end

section
/-! SUPPORT. The pure operations (70_reset_and_hazards.md R221): what their responses depend on, and the statement that says
so. -/

namespace Sys2Proof.Machine

/-- In two states with one configuration, and for `PARSE` one `CHKEN`, a pure operation gives one response and nothing
else: each operation's answer reads nothing more of its state. -/
theorem exec_pure_congr {i : Instr} {s s' : State} (hp : isPure i = true) (hcfg : s'.cfg = s.cfg)
    (hchken : (∃ a, i = .parse a) → s'.chken = s.chken) :
    ∃ r, exec i s = .next (s.respond r) ∧ exec i s' = .next (s'.respond r) := by
  cases i with
  | nop a | chkv a => exact ⟨_, rfl, rfl⟩
  | venc a =>
    simp only [exec, execVenc, hcfg]
    split <;> exact ⟨_, rfl, rfl⟩
  | vdec a =>
    simp only [exec, execVdec, hcfg]
    exact ⟨_, rfl, rfl⟩
  | fin a =>
    simp only [exec, execFin, hcfg]
    cases finalise s.cfg a.data <;> exact ⟨_, rfl, rfl⟩
  | build a =>
    simp only [exec, execBuild, hcfg]
    cases buildFrame s.cfg a.a0 a.data <;> exact ⟨_, rfl, rfl⟩
  | parse a =>
    simp only [exec, execParse, hcfg, hchken ⟨a, rfl⟩]
    cases parseFrame s.cfg s.chken a.f a.a0 a.data <;> exact ⟨_, rfl, rfl⟩
  | _ => cases hp

/-- Settles O47: the one response of both states is all either gains. -/
theorem pureOperationsDependOnOperandsAndParameters : Obligations.PureOperationsDependOnOperandsAndParameters :=
  fun _ _ _ => exec_pure_congr

end Sys2Proof.Machine
end

section
/-! SUPPORT. The two input ports (30_encoding.md): the header's fields as numbers, the request decoder as equations over
a header word and over four header bytes, the RX symbol, and the statements that decoder and encoder agree. -/

namespace Sys2Proof.Machine

/-! ### The header's fields -/

theorem headerSel_joinBytes_toNat (b3 b2 b1 b0 : Byte) : (headerSel (joinBytes b3 b2 b1 b0)).toNat = b3.toNat / 16 := by
  have h3 := b3.isLt
  have h2 := b2.isLt
  have h1 := b1.isLt
  have h0 := b0.isLt
  rw [headerSel, BitVec.extractLsb'_toNat, joinBytes_toNat, Nat.shiftRight_eq_div_pow]
  omega

theorem headerReserved_joinBytes_eq_zero (b3 b2 b1 b0 : Byte) :
    headerReserved (joinBytes b3 b2 b1 b0) = 0#3 ↔ b3.toNat / 2 % 8 = 0 := by
  have h2 := b2.isLt
  have h1 := b1.isLt
  have h0 := b0.isLt
  rw [← BitVec.toNat_inj, headerReserved, BitVec.extractLsb'_toNat, joinBytes_toNat, Nat.shiftRight_eq_div_pow]
  simp only [BitVec.toNat_ofNat]
  omega

theorem headerCount_joinBytes (b3 b2 b1 b0 : Byte) : headerCount (joinBytes b3 b2 b1 b0) = b0.toNat := by
  have h0 := b0.isLt
  rw [headerCount, BitVec.extractLsb'_toNat, joinBytes_toNat, Nat.shiftRight_zero]
  omega

theorem headerArgs_joinBytes (b3 b2 b1 b0 : Byte) (data : List Byte) :
    headerArgs (joinBytes b3 b2 b1 b0) data =
      { f := decide (b3.toNat % 2 = 1), a1 := b2, a0 := b1, data := data } := by
  have hbytes := wordBytes_joinBytes b3 b2 b1 b0
  simp only [wordBytes, List.cons.injEq] at hbytes
  obtain ⟨-, ha1, ha0, -⟩ := hbytes
  have hf : (joinBytes b3 b2 b1 b0).toNat / 2 ^ 24 % 2 = b3.toNat % 2 := by
    have h2 := b2.isLt
    have h1 := b1.isLt
    have h0 := b0.isLt
    rw [joinBytes_toNat]
    omega
  rw [headerArgs, BitVec.getLsbD, Nat.testBit_eq_decide_div_mod_eq, ha1, ha0, hf]

theorem headerCount_le (w : Word) : headerCount w ≤ 255 :=
  Nat.le_of_lt_succ (w.extractLsb' 0 8).isLt

/-! ### The select codes -/

/-- The operation of a select code: its operands, its code, and the request that carries it (R80, R82). -/
theorem instrOfSel_spec (sel : BitVec 4) (a : Args) :
    (instrOfSel sel a).args? = some a ∧ selectCode (instrOfSel sel a) = some sel.toNat ∧
      encode (instrOfSel sel a) = .request (requestBytes sel a) := by
  have hsel : sel ∈ (List.range 16).map (BitVec.ofNat 4) := by revert sel; decide
  fin_cases hsel <;> exact ⟨rfl, rfl, rfl⟩

/-- Every command is the operation of the select code of its request (R82). -/
theorem exists_instrOfSel {i : Instr} {a : Args} (h : i.args? = some a) :
    ∃ sel, encode i = .request (requestBytes sel a) ∧ i = instrOfSel sel a := by
  cases i with
  | rxb b | rxeof b => cases h
  | _ => cases h; exact ⟨_, rfl, rfl⟩

theorem wf_instrOfSel (sel : BitVec 4) (a : Args) : (instrOfSel sel a).wf = a.wf := by
  rw [Instr.wf, (instrOfSel_spec sel a).1]

/-! ### The request decoder -/

/-- The decoder on a whole header (R80, R83): the data bytes counted, then the reserved bits tested, then the select
code. -/
theorem decodeRequest_wordBytes (w : Word) (more : List Byte) :
    decodeRequest (wordBytes w ++ more) =
      if more.length < headerCount w then .incomplete
      else if headerReserved w ≠ 0#3 then .reservedBits (more.drop (headerCount w))
      else .instr (instrOfSel (headerSel w) (headerArgs w (more.take (headerCount w))))
        (more.drop (headerCount w)) := by
  show decodeRequest (_ :: _ :: _ :: _ :: more) = _
  rw [decodeRequest, joinBytes_extract]

theorem decodeRequest_of_no_header {bytes : List Byte} (h : bytes.length < 4) : decodeRequest bytes = .incomplete := by
  match bytes, h with
  | [], _ | [_], _ | [_, _], _ | [_, _, _], _ => rfl

/-- What stands at the command port begins with a header, or is too short for one. -/
theorem header_cases (bytes : List Byte) : bytes.length < 4 ∨ ∃ w more, bytes = wordBytes w ++ more := by
  match bytes with
  | [] | [_] | [_, _] | [_, _, _] => exact .inl (by simp)
  | b3 :: b2 :: b1 :: b0 :: more => exact .inr ⟨joinBytes b3 b2 b1 b0, more, by rw [wordBytes_joinBytes]; rfl⟩

/-- The decoder inverts the encoder on a request, whatever follows it. -/
theorem decodeRequest_requestBytes (sel : BitVec 4) {a : Args} (h : a.wf = true) (rest : List Byte) :
    decodeRequest (requestBytes sel a ++ rest) = .instr (instrOfSel sel a) rest := by
  rw [requestBytes, List.append_assoc, decodeRequest_wordBytes, headerCount_requestHeader sel a h,
    headerReserved_requestHeader, headerSel_requestHeader, List.take_left, List.drop_left, headerArgs_requestHeader,
    if_neg (by simp), if_neg (by simp)]

/-- Everything a request that decodes to an operation can be: the encoding of that operation, and what is left over. -/
theorem decodeRequest_instr {bytes rest : List Byte} {i : Instr} (h : decodeRequest bytes = .instr i rest) :
    ∃ sel a, i = instrOfSel sel a ∧ a.wf = true ∧ bytes = requestBytes sel a ++ rest := by
  obtain hshort | ⟨w, more, rfl⟩ := header_cases bytes
  · rw [decodeRequest_of_no_header hshort] at h
    cases h
  · rw [decodeRequest_wordBytes] at h
    split at h
    · cases h
    · next hwhole =>
      split at h
      · cases h
      · next hres =>
        cases h
        have hcount : (more.take (headerCount w)).length = headerCount w :=
          List.length_take_of_le (Nat.le_of_not_lt hwhole)
        refine ⟨_, _, rfl, decide_eq_true (hcount.trans_le (headerCount_le w)), ?_⟩
        rw [requestBytes, requestHeader_header w _ (not_not.mp hres) hcount, List.append_assoc]
        exact congrArg _ (List.take_append_drop _ _).symm

theorem decodeRequest_instr_wf {bytes rest : List Byte} {i : Instr} (h : decodeRequest bytes = .instr i rest) :
    i.wf = true := by
  obtain ⟨sel, a, rfl, hwf, -⟩ := decodeRequest_instr h
  exact (wf_instrOfSel sel a).trans hwf

/-- The request decoder answers commands only. -/
theorem decodeRequest_instr_args {bytes rest : List Byte} {i : Instr} (h : decodeRequest bytes = .instr i rest) :
    i.args?.isSome = true := by
  obtain ⟨sel, a, rfl, -, -⟩ := decodeRequest_instr h
  rw [(instrOfSel_spec sel a).1, Option.isSome_some]

/-- A request with reserved header bits set is taken from the head of the stream (R83). -/
theorem decodeRequest_reservedBits {bytes rest : List Byte} (h : decodeRequest bytes = .reservedBits rest) :
    ∃ taken, bytes = taken ++ rest := by
  obtain hshort | ⟨w, more, rfl⟩ := header_cases bytes
  · rw [decodeRequest_of_no_header hshort] at h
    cases h
  · rw [decodeRequest_wordBytes] at h
    split_ifs at h
    cases h
    exact ⟨wordBytes w ++ more.take (headerCount w), by rw [List.append_assoc, List.take_append_drop]⟩

/-! ### The request decoder on four header bytes -/

theorem decodeRequest_header_bytes (b3 b2 b1 b0 : Byte) (more : List Byte) :
    decodeRequest (b3 :: b2 :: b1 :: b0 :: more) = decodeRequest (wordBytes (joinBytes b3 b2 b1 b0) ++ more) := by
  rw [wordBytes_joinBytes]
  rfl

theorem decodeRequest_of_data_missing (b3 b2 b1 b0 : Byte) {more : List Byte} (h : more.length < b0.toNat) :
    decodeRequest (b3 :: b2 :: b1 :: b0 :: more) = .incomplete := by
  rw [decodeRequest_header_bytes, decodeRequest_wordBytes, headerCount_joinBytes, if_pos h]

section
variable {b3 b2 b1 b0 : Byte} {data : List Byte} (more : List Byte) (hn : data.length = b0.toNat)
include hn

theorem decodeRequest_of_reserved (hres : b3.toNat / 2 % 8 ≠ 0) :
    decodeRequest (b3 :: b2 :: b1 :: b0 :: (data ++ more)) = .reservedBits more := by
  rw [decodeRequest_header_bytes, decodeRequest_wordBytes, headerCount_joinBytes, ← hn, if_neg (by simp),
    if_pos (mt (headerReserved_joinBytes_eq_zero ..).mp hres), List.drop_left]

/-- A whole request without reserved bits decodes to the operation of its select code, with the header's fields as
operands (R80). -/
theorem decodeRequest_of_fields (hres : b3.toNat / 2 % 8 = 0) :
    ∃ i, decodeRequest (b3 :: b2 :: b1 :: b0 :: (data ++ more)) = .instr i more ∧
      selectCode i = some (b3.toNat / 16) ∧
      i.args? = some { f := decide (b3.toNat % 2 = 1), a1 := b2, a0 := b1, data := data } := by
  obtain ⟨hargs, hsel, -⟩ := instrOfSel_spec (headerSel (joinBytes b3 b2 b1 b0))
    (headerArgs (joinBytes b3 b2 b1 b0) data)
  refine ⟨_, ?_, hsel.trans (by rw [headerSel_joinBytes_toNat]), hargs.trans (by rw [headerArgs_joinBytes])⟩
  rw [decodeRequest_header_bytes, decodeRequest_wordBytes, headerCount_joinBytes, ← hn, if_neg (by simp),
    if_neg (not_not.mpr ((headerReserved_joinBytes_eq_zero ..).mpr hres)), List.drop_left, List.take_left]

end

/-! ### The RX symbol -/

theorem decodeSymbol_byte (b : Byte) : decodeSymbol (0#1 ++ b) = .rxb b := by
  have hb : (0#1 ++ b : Symbol).extractLsb' 0 8 = b := BitVec.extractLsb'_append_eq_right
  have heof : (0#1 ++ b : Symbol).getLsbD 8 = false := by rw [BitVec.getLsbD_append]; rfl
  rw [decodeSymbol, hb, heof]
  rfl

theorem decodeSymbol_eof (b : Byte) : decodeSymbol (1#1 ++ b) = .rxeof b := by
  have hb : (1#1 ++ b : Symbol).extractLsb' 0 8 = b := BitVec.extractLsb'_append_eq_right
  have heof : (1#1 ++ b : Symbol).getLsbD 8 = true := by rw [BitVec.getLsbD_append]; rfl
  rw [decodeSymbol, hb, heof]
  rfl

/-- Every symbol is a byte or the end of stream (R86). -/
theorem symbol_cases (sym : Symbol) : ∃ b : Byte, sym = 0#1 ++ b ∨ sym = 1#1 ++ b := by
  refine ⟨sym.extractLsb' 0 8, ?_⟩
  have hsplit : sym = BitVec.ofBool (sym.getLsbD 8) ++ sym.extractLsb' 0 8 := by
    apply BitVec.eq_of_getLsbD_eq
    intro i hi
    rw [BitVec.getLsbD_append, BitVec.getLsbD_extractLsb']
    interval_cases i <;> simp
  cases heof : sym.getLsbD 8 with
  | false => rw [heof] at hsplit; exact .inl hsplit
  | true => rw [heof] at hsplit; exact .inr hsplit

theorem decodeSymbol_wf (sym : Symbol) : (decodeSymbol sym).wf = true := by
  rw [Instr.wf, decodeSymbol_event]

/-! ### The statements -/

/-- Settles O2: a command is the operation of its select code, whose request the decoder inverts; an event is one of the
two forms of a symbol. -/
theorem everyInstructionDecodesFromItsEncoding : Obligations.EveryInstructionDecodesFromItsEncoding := by
  intro i hwf
  cases ha : i.args? with
  | some a =>
    obtain ⟨sel, henc, rfl⟩ := exists_instrOfSel ha
    rw
 [wf_instrOfSel] at hwf
    have hdec := decodeRequest_requestBytes sel hwf
    refine ⟨?_, fun bytes hbytes rest => ?_⟩
    · rw [henc, decode, ← List.append_nil (requestBytes sel a), hdec]
    · rw [henc] at hbytes
      cases hbytes
      exact hdec rest
  | none =>
    cases i with
    | rxb b => exact ⟨congrArg (Decoded.instr · []) (decodeSymbol_byte b), nofun⟩
    | rxeof b => exact ⟨congrArg (Decoded.instr · []) (decodeSymbol_eof b), nofun⟩
    | _ => cases ha

/-- Settles O3: by the inversion of the request decoder, and the two forms of a symbol. -/
theorem acceptedBytesAreTheEncodingOfTheInstruction : Obligations.AcceptedBytesAreTheEncodingOfTheInstruction := by
  refine ⟨fun bytes i rest h => ?_, fun sym => ?_⟩
  · have hwf := decodeRequest_instr_wf h
    obtain ⟨sel, a, rfl, -, hbytes⟩ := decodeRequest_instr h
    obtain ⟨-, -, henc⟩ := instrOfSel_spec sel a
    exact ⟨hwf, _, henc, hbytes⟩
  · refine ⟨decodeSymbol_wf sym, ?_⟩
    obtain ⟨b, rfl | rfl⟩ := symbol_cases sym
    · rw [decodeSymbol_byte]
      rfl
    · rw [decodeSymbol_eof]
      rfl

/-- Settles O4: the decoder on four header bytes, case by case. -/
theorem requestFieldsStandWhereTheHeaderSays : Obligations.RequestFieldsStandWhereTheHeaderSays :=
  ⟨fun _ _ _ _ _ more hn => ⟨decodeRequest_of_fields more hn, decodeRequest_of_reserved more hn⟩,
    fun b3 b2 b1 b0 _ h => decodeRequest_of_data_missing b3 b2 b1 b0 h, fun _ h => decodeRequest_of_no_header h⟩

/-- Settles O1: the decoder computes each of the words. -/
theorem specWordsDecodeToTheirOperations : Obligations.SpecWordsDecodeToTheirOperations := by
  unfold Obligations.SpecWordsDecodeToTheirOperations
  decide

end Sys2Proof.Machine
end

section
/-! SUPPORT. Turns (20_memory.md R58, R62): one equation for each thing a turn can come to, everything a step can do
when it goes on, what `exec` leaves of the input ports and the parameters, and the statements that say so of steps. -/

namespace Sys2Proof.Machine

/-! ### One turn -/

theorem fetchSymbol_idle {s : State} (h : s.run = false ∨ s.rxIn = []) : fetchSymbol s = .idle s := by
  rw [fetchSymbol]
  obtain hrun | hx := h
  · rw [hrun]
    rfl
  · rw [hx]
    exact ite_self _

theorem step_of_no_turn {
s : State} (hs : s.sched = []) : step s = .next s := by
  simp only [step, fetch, hs]

section
variable {s : State} {turns : List Agent}

theorem step_foreground_instr {i : Instr} {rest : List Byte} (hs : s.sched = .foreground :: turns)
    (hd : decodeRequest s.cmdIn = .instr i rest) : step s = exec i { s with sched := turns, cmdIn := rest } := by
  simp only [step, fetch, hs, fetchRequest, State.setSched_cmdIn, hd]
  rfl

theorem step_foreground_reservedBits {rest : List Byte} (hs : s.sched = .foreground :: turns)
    (hd : decodeRequest s.cmdIn = .reservedBits rest) :
    step s = raise (.illegalCommand .reservedBits) { s with sched := turns, cmdIn := rest } := by
  simp only [step, fetch, hs, fetchRequest, State.setSched_cmdIn, hd]
  rfl

theorem step_foreground_incomplete (hs : s.sched = .foreground :: turns) (hd : decodeRequest s.cmdIn = .incomplete) :
    step s = .next { s with sched := turns } := by
  simp only [step, fetch, hs, fetchRequest, State.setSched_cmdIn, hd]
  rfl

theorem step_receiver_symbol {sym : Symbol} {rest : List Symbol} (hs : s.sched = .receiver :: turns)
    (hrun : s.run = true) (hx : s.rxIn = sym :: rest) :
    step s = exec (decodeSymbol sym) { s with sched := turns, rxIn := rest } := by
  simp only [step, fetch, hs, fetchSymbol, State.setSched_run, State.setSched_rxIn, if_pos hrun, hx]
  rfl

theorem step_receiver_idle (hs : s.sched = .receiver :: turns) (hidle : s.run = false ∨ s.rxIn = []) :
    step s = .next { s with sched := turns } := by
  simp only [step, fetch, hs, fetchSymbol_idle (s := s.setSched turns) hidle]
  rfl

end

/-- Everything a step can do when it goes on, with the state its agent runs from. -/
theorem step_next_cases {s t : State} (h : step s = .next t) :
    (∃ i rest turns, s.sched = .foreground :: turns ∧ decodeRequest s.cmdIn = .instr i rest ∧
      exec i { s with sched := turns, cmdIn := rest } = .next t) ∨
    (∃ rest turns, s.sched = .foreground :: turns ∧ decodeRequest s.cmdIn = .reservedBits rest ∧
      t = State.respond { s with sched := turns, cmdIn := rest } (.error (.illegalCommand .reservedBits))) ∨
    (∃ sym rest turns, s.sched = .receiver :: turns ∧ s.run = true ∧ s.rxIn = sym :: rest ∧
      exec (decodeSymbol sym) { s with sched := turns, rxIn := rest } = .next t) ∨
    t = { s with sched := s.sched.tail } := by
  obtain ⟨i, rest, turns, hs, hd, hf⟩ | ⟨rest, turns, hs, hd, hf⟩ | ⟨sym, rest, turns, hs, hrun, hx, hf⟩ | hf :=
    fetch_cases s <;> simp only [step, hf] at h
  · exact .inl ⟨i, rest, turns, hs, hd, h⟩
  · injection h with h
    exact .inr (.inl ⟨rest, turns, hs, hd, h.symm⟩)
  · exact .inr (.inr (.inl ⟨sym, rest, turns, hs, hrun, hx, h⟩))
  · injection h with h
    exact .inr (.inr (.inr h.symm))

/-! ### What `exec` leaves of the input ports and the parameters, and adds to the outputs -/

/-- No operation and no event touches a parameter, an input port or the turns: the fetch does. -/
theorem exec_keeps_ports {i : Instr} {s t : State} (h : exec i s = .next t) :
    t.cfg = s.cfg ∧ t.cmdIn = s.cmdIn ∧ t.rxIn = s.rxIn ∧ t.sched = s.sched := by
  cases i with
  | rxb b =>
    obtain ⟨buf, len, rfl | ⟨fr, rfl⟩⟩ := execRxb_next_dispatch h
    · exact ⟨rfl, rfl, rfl, rfl⟩
    · exact ⟨dispatch_cfg .., dispatch_cmdIn .., dispatch_rxIn .., dispatch_sched ..⟩
  | _ =>
    obtain ⟨rsp, rfl⟩ := exec_next_stateWrite h nofun
    exact ⟨rfl, rfl, rfl, rfl⟩

/-- A command emits nothing and gives one response. -/
theorem exec_command_outputs {i : Instr} {s t : State} (h : exec i s = .next t) (hc : i.args?.isSome = true) :
    t.obsOut = s.obsOut ∧ ∃ r, t.rspOut = s.rspOut ++ [r] := by
  obtain ⟨r, rfl⟩ | ⟨u, rfl, hrsp, hobs⟩ := exec_command_respond h hc
  · exact ⟨rfl, r, rfl⟩
  · exact ⟨hobs, _, congrArg (· ++ _) hrsp⟩

theorem nothing_taken {α : Type} {l l' : List α} (h : l' = l) : ∃ taken, l = taken ++ l' ∧ taken.length ≤ 1 :=
  ⟨[], h.symm, Nat.zero_le 1⟩

theorem nothing_added {α : Type} {l l' : List α} (h : l' = l) : ∃ added, l' = l ++ added ∧ added.length ≤ 1 :=
  ⟨[], by rw [h, List.append_nil], Nat.zero_le 1⟩

/-- An event emits at most one frame. -/
theorem exec_event_obsOut {i : Instr} {s t : State} (h : exec i s = .next t) (he : i.args? = none) :
    ∃ added, t.obsOut = s.obsOut ++ added ∧ added.length ≤ 1 := by
  cases i with
  | rxb b =>
    obtain ⟨buf, len, rfl | ⟨fr, rfl⟩⟩ := execRxb_next_dispatch h
    · exact nothing_added rfl
    · exact ⟨[fr], dispatch_obsOut .., Nat.le_refl 1⟩
  | rxeof b =>
    obtain ⟨-, rfl⟩ := execRxeof_next (b := b) h
    exact nothing_added rfl
  | _ => cases he

/-- No step changes a parameter (R6). -/
theorem step_cfg {s t : State} (h : step s = .next t) : t.cfg = s.cfg := by
  obtain ⟨i, rest, turns, -, -, hexec⟩ | ⟨rest, turns, -, -, rfl⟩ | ⟨sym, rest, turns, -, -, -, hexec⟩ | rfl :=
    step_next_cases h
  · exact (exec_keeps_ports hexec).1
  · rfl
  · exact (exec_keeps_ports hexec).1
  · rfl

/-! ### The statements -/

/-- Settles O12: by what the turn came to; the decoder takes from the head of its stream, and `exec` takes nothing. -/
theorem stepTakesFromTheHeadOfOneStream : Obligations.StepTakesFromTheHeadOfOneStream := by
  intro s t h
  obtain ⟨i, rest, turns, hs, hd, hexec⟩ | ⟨rest, turns, hs, hd, rfl⟩ | ⟨sym, rest, turns, hs, -, hx, hexec⟩ | rfl :=
    step_next_cases h
  · obtain ⟨-, hcmd, hrx, hsched⟩ := exec_keeps_ports hexec
    obtain ⟨hobs, r, hrsp⟩ := exec_command_outputs hexec (decodeRequest_instr_args hd)
    obtain ⟨sel, a, -, -, hbytes⟩ := decodeRequest_instr hd
    rw [hs]
    exact ⟨⟨_, by rw [hcmd]; exact hbytes⟩, nothing_taken hrx, hsched, fun hne => absurd rfl hne, fun _ => ⟨hrx, hobs⟩,
      ⟨[r], hrsp, Nat.le_refl 1⟩, nothing_added hobs⟩
  · rw [hs]
    exact ⟨decodeRequest_reservedBits hd, nothing_taken rfl, rfl, fun hne => absurd rfl hne, fun _ => ⟨rfl, rfl⟩,
      ⟨[_], rfl, Nat.le_refl 1⟩, nothing_added rfl⟩
  · obtain ⟨-, hcmd, hrx, hsched⟩ := exec_keeps_ports hexec
    have hrsp := exec_event_rspOut hexec (decodeSymbol_event sym)
    have hobs := exec_event_obsOut hexec (decodeSymbol_event sym)
    rw [hs]
    exact ⟨⟨[], hcmd.symm⟩, ⟨[sym], by rw [hrx, hx]; rfl, Nat.le_refl 1⟩, hsched, fun _ => ⟨hcmd, hrsp⟩,
      fun hne => absurd rfl hne, nothing_added hrsp, hobs⟩
  · exact ⟨⟨[], rfl⟩, nothing_taken rfl, rfl, fun _ => ⟨rfl, rfl⟩, fun _ => ⟨rfl, rfl⟩, nothing_added rfl,
      nothing_added rfl⟩

/-- Settles O45: `exec` and the fetch leave the parameters. -/
theorem noStepChangesAParameter : Obligations.NoStepChangesAParameter :=
  ⟨fun _ _ _ h => (exec_keeps_ports h).1, fun _ _ => step_cfg⟩

/-- The reserved select codes are two, and both raise `IllegalCommand(1)` (R176). -/
theorem exec_of_reserved_selectCode {i : Instr} (s : State) (h : selectCode i = some 0x7 ∨ selectCode i = some 0xE) :
    exec i s = raise (.illegalCommand .reservedSelect) s := by
  cases i with
  | reserved7 a | reservedE a => rfl
  | _ => simp [selectCode] at h

/-- Settles O10: the decoder on the request's four header bytes, then the foreground's turn. -/
theorem reservedCommandsAnswerIllegalCommand : Obligations.ReservedCommandsAnswerIllegalCommand := by
  intro s turns b3 b2 b1 b0 data more hs hcmd hn
  refine ⟨fun hres => ?_, fun hres hsel => ?_⟩
  · rw [step_foreground_reservedBits hs (hcmd ▸ decodeRequest_of_reserved more hn hres)]
    rfl
  · obtain ⟨i, hd, hi, -⟩ := decodeRequest_of_fields (b2 := b2) (b1 := b1) more hn hres
    have hcode : selectCode i = some 0x7 ∨ selectCode i = some 0xE := by
      rw [hi]
      exact hsel.imp (congrArg some) (congrArg some)
    rw [step_foreground_instr hs (hcmd ▸ hd), exec_of_reserved_selectCode _ hcode]
    rfl

/-- Settles O6: the two forms of a symbol, and the stopped receiver's idle turn. -/
theorem rxSymbolsAreByteOrEndOfStream : Obligations.RxSymbolsAreByteOrEndOfStream :=
  ⟨fun b => ⟨decodeSymbol_byte b, b, decodeSymbol_eof b⟩, fun _ _ _ => rfl,
    fun _ _ hs hrun => step_receiver_idle hs (.inl hrun)⟩

/-- Settles O8: the turn's equation for each agent. -/
theorem stepRunsTheDecodedInstruction : Obligations.StepRunsTheDecodedInstruction :=
  ⟨fun _ _ _ _ => step_foreground_instr, fun _ _ _ _ => step_receiver_symbol⟩

/-- Settles O9: the equations of the idle turns. -/
theorem turnWithNothingToDoOnlyPasses : Obligations.TurnWithNothingToDoOnlyPasses :=
  ⟨fun _ => step_of_no_turn, fun _ _ => step_foreground_incomplete, fun _ _ => step_receiver_idle⟩

/-- Settles O11: both codes raise the error, which is its response. -/
theorem reservedSelectCodesRaiseIllegalCommand : Obligations.ReservedSelectCodesRaiseIllegalCommand :=
  fun s _ => ⟨rfl, rfl, exec_of_reserved_selectCode s (.inl rfl), exec_of_reserved_selectCode s (.inr rfl)⟩

end Sys2Proof.Machine
end

section
/-! SUPPORT. The invariant (10_state.md R33, R34; 30_encoding.md R81, R88): the size of a response, where `exec` can
stop, the rules by which each update of the state keeps the invariant, and the statements that every step goes on and
keeps it. -/

namespace Sys2Proof.Machine

/-! ### The size of a response (R81) -/

theorem finalise_length {p : Params} {s t : List Byte} (h : finalise p s = .ok t) : t.length = s.length := by
  rw [finalise] at h
  split at h
  · cases h
  · cases h
    exact patch_length p s

theorem buildFrame_length {p : Params} {op : Byte} {payload t : List Byte} (h : buildFrame p op payload = .ok t) :
    t.length ≤ 255 := by
  rw [buildFrame] at h
  split at h
  · cases h
  · next hfits =>
    rw [finalise_length h, assemble_length]
    exact Nat.le_of_not_lt hfits

theorem parseFrame_payload_length {p : Params} {chken f : Bool} {expected op : Byte} {s payload : List Byte}
    (h : parseFrame p chken f expected s = .ok (op, payload)) : payload.length ≤ s.length := by
  simp only [parseFrame] at h
  split_ifs at h
  cases h
  simp only [payloadOf, List.length_take, List.length_drop]
  omega

/-- A well-formed command that goes on writes its state elements and gives one response, whose number of data bytes fits
the header's field. -/
theorem exec_command_sized {i : Instr} {s t : State} (h : exec i s = .next t) (hc : i.args?.isSome = true)
    (hwf : i.wf = true) : ∃ r, t = (stateWrite i s).respond r ∧ (responseData r).length ≤ 255 := by
  cases i with
  | start a | stop a | pclr a | ctrlw a | reset a | nop a | vdec a | chkv a | reserved7 a | reservedE a | statr a =>
    injection h with h
    exact ⟨_, h.symm, Nat.zero_le 255⟩
  | venc a =>
    simp only [exec, execVenc] at h
    split at h <;> injection h with h
    · exact ⟨_, h.symm, Nat.zero_le 255⟩
    · exact ⟨_, h.symm, Nat.zero_le 255⟩
  | fin a =>
    simp only [exec, execFin] at h
    split at h <;> injection h with h
    · next fr hfr => exact ⟨_, h.symm, (finalise_length hfr).trans_le (of_decide_eq_true hwf)⟩
    · exact ⟨_, h.symm, Nat.zero_le 255⟩
  | build a =>
    simp only [exec, execBuild] at h
    split at h <;> injection h with h
    · next fr hfr => exact ⟨_, h.symm, buildFrame_length hfr⟩
    · exact ⟨_, h.symm, Nat.zero_le 255⟩
  | parse a =>
    simp only [exec, execParse] at h
    split at h <;> injection h with h
    · next op payload hp => exact ⟨_, h.symm, (parseFrame_payload_length hp).trans (of_decide_eq_true hwf)⟩
    · exact ⟨_, h.symm, Nat.zero_le 255⟩
  | pread a =>
    obtain ⟨r, rfl, hfull, hempty⟩ := execPread_next (a := a) h
    refine ⟨r, rfl, ?_⟩
    cases hp : s.pendv with
    | true =>
      obtain ⟨fr, hfr, rfl⟩ := hfull hp
      exact (Memory.readBytes_eq_some.1 hfr).1.trans_le (Nat.le_of_lt_succ s.pendlen.isLt)
    | false =>
      rw [hempty hp]
      exact Nat.zero_le 255
  | rxb b | rxeof b => cases hc

/-! ### The accumulation -/

theorem rxCount_eq_of_le {s : State} (h : s.rxlen.val ≤ 255) : rxCount s = s.rxlen.val :=
  Nat.min_eq_left h

/-- R34 (b) on the accumulation as a byte string. -/
theorem RxMarkerFree.noMarkerAfterFirst {s : State} {fr : List Byte} (h : RxMarkerFree s) (hle : s.rxlen.val ≤ 255)
    (hfr : s.rxbuf.readBytes 0 s.rxlen.val = some fr) : NoMarkerAfterFirst fr := by
  obtain ⟨hlen, hread⟩ := Memory.readBytes_eq_some.1 hfr
  intro i hi h1
  have hi' : i < s.rxlen.val := by omega
  rw [Ne, ← byteAt_eq_iff hi, ← hread i hi', Nat.zero_add]
  exact h i (by rw [rxCount_eq_of_le hle]; exact hi') h1

/-- The detector leaves an empty accumulation, or the old one and a byte other than the marker. -/
theorem detectMarker_cases (b : Byte) (s : State) :
    detectMarker b s = s.emptyRx ∨ b ≠ Config.marker ∧ detectMarker b s = s := by
  by_cases hb : b = Config.marker
  · exact .inl (if_pos hb)
  · exact .inr ⟨hb, if_neg hb⟩

theorem RxHeld.emptyRx (s : State) : RxHeld s.emptyRx := fun _ hi => absurd hi (Nat.not_lt_zero _)

theorem RxMarkerFree.emptyRx (s : State) : RxMarkerFree s.emptyRx := fun _ hi => absurd hi (Nat.not_lt_zero _)

/-- What the accumulation reads after the append: the byte at the offset that is new, the old bytes below it. -/
theorem appendRx_read {s : State} (b : Byte) {i : Nat} (hi : i < rxCount (s.appendRx b)) :
    i = s.rxlen.val ∧ (s.appendRx b).rxbuf.read i = some b ∨
      i < rxCount s ∧ (s.appendRx b).rxbuf.read i = s.rxbuf.read i := by
  simp only [rxCount, State.appendRx_rxlen, countUp_val, Config.rxCap] at hi ⊢
  rw [State.appendRx_rxbuf]
  split
  · next hlt =>
    by_cases hnew : i = s.rxlen.val
    · exact .inl ⟨hnew, by rw [hnew, Memory.read_write_same]⟩
    · exact .inr ⟨by omega, Memory.read_write_other _ _ hnew⟩
  · next hfull =>
    simp only [Config.rxCap] at hfull
    exact .inr ⟨by omega, rfl⟩

theorem RxHeld.appendRx {s : State} (h : RxHeld s) (b : Byte) : RxHeld (s.appendRx b) := by
  intro i hi
  obtain ⟨-, hread⟩ | ⟨hi, hread⟩ := appendRx_read b hi
  · rw [hread, Option.isSome_some]
  · rw [hread]
    exact h i hi

/-- The append keeps R34 (b) where the marker is appended to an empty accumulation only. -/
theorem RxMarkerFree.appendRx {s : State} (h : RxMarkerFree s) {b : Byte} (hb : b = Config.marker → s.rxlen.val = 0) :
    RxMarkerFree (s.appendRx b) := by
  intro i hi h1
  obtain ⟨hnew, hread⟩ | ⟨hi, hread⟩ := appendRx_read b hi
  · rw [hread, Ne, Option.some.injEq]
    exact fun hm => by have := hb hm; omega
  · rw [hread]
    exact h i hi h1

theorem appendRx_wf {s : State} (h : s.rxbuf.wf) (b : Byte) : (s.appendRx b).rxbuf.wf := by
  rw [State.appendRx_rxbuf]
  split
  · next hlt => exact Memory.write_wf b h hlt
  · exact h

/-- The accumulation of `RXB` holds its values when the one before it did. -/
theorem RxHeld.detectMarker_appendRx {s : State} (h : RxHeld s) (b : Byte) :
    RxHeld ((detectMarker b s).appendRx b) := by
  obtain hd | ⟨-, hd⟩ := detectMarker_cases b s <;> rw [hd]
  · exact (RxHeld.emptyRx s).appendRx b
  · exact h.appendRx b

/-! ### Where `exec` can stop -/

theorem PendHeld.of_readBytes {s : State} {fr : List Byte} (h : s.pendbuf.readBytes 0 s.pendlen.val = some fr) :
    PendHeld s := by
  obtain ⟨hlen, hread⟩ := Memory.readBytes_eq_some.1 h
  intro i hi
  have := hread i hi
  rw [Nat.zero_add] at this
  rw [this, List.getElem?_eq_getElem (by omega), Option.isSome_some]

theorem execRxb_stop_cases (b : Byte) (s : State) :
    GoesOn (execRxb b s) ∨ execRxb b s = .fault .receiverStopped ∧ s.run = false ∨
      execRxb b s = .fault .noValue ∧ s.run = true ∧ ¬ RxHeld s := by
  cases hrun : s.run with
  | false => exact .inr (.inl ⟨by rw [execRxb, hrun]; rfl, rfl⟩)
  | true =>
    have hexec : execRxb b s = completeRx ((detectMarker b s).appendRx b) := exec_rxb_of_running b hrun
    rw [hexec]
    obtain hnext | hstop := completeRx_stop ((detectMarker b s).appendRx b)
    · exact .inl hnext
    · refine .inr (.inr ⟨hstop, rfl, fun hheld => ?_⟩)
      obtain ⟨t, ht⟩ := completeRx_goes_on (s := (detectMarker b s).appendRx b) fun i hi hle =>
        hheld.detectMarker_appendRx b i (by rw [rxCount_eq_of_le hle]; exact hi)
      rw [hstop] at ht
      cases ht

theorem exec_pread_of_unheld {a : Args} {s : State} (hp : s.pendv = true) (hheld : ¬ PendHeld s) :
    exec (.pread a) s = .fault .noValue := by
  cases hfr : s.pendbuf.readBytes 0 s.pendlen.val with
  | some fr => exact absurd (PendHeld.of_readBytes hfr) hheld
  | none => simp only [exec, execPread, hp, if_true, hfr]

/-- Every outcome of `exec`: a next state; the stop of an event while `RUN = 0`; or the stop at a byte of the mailbox or
of the accumulation that holds no value. -/
theorem exec_cases (i : Instr) (s : State) :
    GoesOn (exec i s) ∨ exec i s = .fault .receiverStopped ∧ i.args? = none ∧ s.run = false ∨
      exec i s = .fault .noValue ∧
        ((∃ a, i = .pread a ∧ s.pendv = true ∧ ¬ PendHeld s) ∨ ∃ b, i = .rxb b ∧ s.run = true ∧ ¬ RxHeld s) := by
  by_cases hpure : isPure i = true
  · obtain ⟨r, hr⟩ := exec_pure i s hpure
    exact .inl ⟨_, hr⟩
  cases i with
  | rxb b =>
    obtain hnext | ⟨hstop, hrun⟩ | ⟨hstop, hrun, hheld⟩ := execRxb_stop_cases b s
    · exact .inl hnext
    · exact .inr (.inl ⟨hstop, rfl, hrun⟩)
    · exact .inr (.inr ⟨hstop, .inr ⟨b, rfl, hrun, hheld⟩⟩)
  | rxeof b =>
    cases hrun : s.run with
    | true => exact .inl ⟨_, exec_rxeof_of_running b hrun⟩
    | false => exact .inr (.inl ⟨by rw [exec, execRxeof, hrun]; rfl, rfl, rfl⟩)
  | pread a =>
    cases hp : s.pendv with
    | false => exact .inl ⟨_, exec_pread_of_empty a hp⟩
    | true =>
      by_cases hheld : PendHeld s
      · obtain ⟨fr, hfr⟩ := hheld.readBytes
        exact .inl ⟨_, exec_pread_of_populated a hp hfr⟩
      · exact .inr (.inr ⟨exec_pread_of_unheld hp hheld, .inl ⟨a, rfl, rfl, hheld⟩⟩)
  | start a | stop a | pclr a | ctrlw a | statr a | reserved7 a | reservedE a | reset a => exact .inl ⟨_, rfl⟩
  | _ => exact absurd rfl hpure

theorem exec_event_of_stopped {i : Instr} {s : State} (he : i.args? = none) (hrun : s.run = false) :
    exec i s = .fault .receiverStopped := by
  cases i with
  | rxb b | rxeof b => exact if_neg (by simp [hrun])
  | _ => cases he

/-! ### The updates keep the invariant -/

namespace Inv

variable {s : State}

/-- The turn and the input ports are no part of the invariant. -/
theorem setInputs (h : Inv s) (turns : List Agent) (bytes : List Byte) (symbols : List Symbol) :
    Inv { s with sched := turns, cmdIn := bytes, rxIn := symbols } :=
  ⟨h.rxWf, h.pendWf, h.rxHeld, h.rxMarkerFree, h.mail, h.closedStopped, h.obsSizes, h.rspSizes⟩

theorem respond (h : Inv s) {r : Response} (hr : (responseData r).length ≤ 255) : Inv (s.respond r) where
  rxWf := h.rxWf
  pendWf := h.pendWf
  rxHeld := h.rxHeld
  rxMarkerFree := h.rxMarkerFree
  mail := h.mail
  closedStopped := h.closedStopped
  obsSizes := h.obsSizes
  rspSizes r' hr' := by
    obtain hold | hnew := List.mem_append.mp hr'
    · exact h.rspSizes r' hold
    · rwa [List.mem_singleton.mp hnew]

theorem emptyRx (h : Inv s) : Inv s.emptyRx :=
  { h with rxHeld := RxHeld.emptyRx s, rxMarkerFree := RxMarkerFree.emptyRx s }

theorem clearPending (h : Inv s) : Inv s.clearPending :=
  { h with mail := nofun }

theorem setChken (h : Inv s) (v : Bool) : Inv (s.setChken v) :=
  { h with }

theorem stopRun (h : Inv s) : Inv (s.setRun false) :=
  { h with closedStopped := fun _ => rfl }

theorem start (h : Inv s) : Inv ((s.emptyRx.setTclosed false).setRun true) :=
  { h.emptyRx with closedStopped := nofun }

theorem close (h : Inv s) : Inv ((s.setTclosed true).setRun false) :=
  { h with closedStopped := fun _ => rfl }

/-- The reset values meet what the invariant asks of the state elements; what it asks of the outputs is left. -/
theorem resetBlock (hobs : ∀ fr ∈ s.obsOut, 4 ≤ fr.length ∧ fr.length ≤ 254)
    (hrsp : ∀ r ∈ s.rspOut, (responseData r).length ≤ 255) : Inv s.resetBlock where
  rxWf := ⟨List.Pairwise.nil, nofun⟩
  pendWf := ⟨List.Pairwise.nil, nofun⟩
  rxHeld := RxHeld.emptyRx s.resetBlock
  rxMarkerFree := RxMarkerFree.emptyRx s.resetBlock
  mail := nofun
  closedStopped := nofun
  obsSizes := hobs
  rspSizes := hrsp

theorem appendRx (h : Inv s) {b : Byte} (hb : b = Config.marker → s.rxlen.val = 0) : Inv (s.appendRx b) :=
  { h with
    rxWf := appendRx_wf h.rxWf b
    rxHeld := h.rxHeld.appendRx b
    rxMarkerFree := h.rxMarkerFree.appendRx hb }

/-- The detector makes room for the marker, so the append that follows it keeps the invariant for every byte. -/
theorem detectMarker_appendRx (h : Inv s) (b : Byte) : Inv ((detectMarker b s).appendRx b) := by
  obtain hd | ⟨hb, hd⟩ := detectMarker_cases b s <;> rw [hd]
  · exact h.emptyRx.appendRx fun _ => rfl
  · exact h.appendRx fun hm => absurd hm hb

/-- A complete accumulation has 4 to 254 bytes and no marker after the first (R159, R34 (b)). -/
theorem complete_bounds (h : Inv s) {fr : List Byte} (hfr : s.rxbuf.readBytes 0 s.rxlen.val = some fr)
    (hc : Complete s.cfg fr) : NoMarkerAfterFirst fr ∧ 4 ≤ fr.length ∧ fr.length ≤ 254 := by
  have hlen := (Memory.readBytes_eq_some.1 hfr).1
  have hmax : fr.length ≤ 255 := hc.2.1
  have hm := h.rxMarkerFree.noMarkerAfterFirst (by omega) hfr
  exact ⟨hm, hc.1, hc.length_le hm⟩

theorem emitObs (h : Inv s) {fr : List Byte} (hfr : 4 ≤ fr.length ∧ fr.length ≤ 254) : Inv (s.emitObs fr) :=
  { h with
    obsSizes := fun fr' hfr' => by
      obtain hold | hnew := List.mem_append.mp hfr'
      · exact h.obsSizes fr' hold
      · rwa [List.mem_singleton.mp hnew] }

theorem placePending (h : Inv s) {fr : List Byte} (hfr : MailFrame s.cfg fr) : Inv (s.placePending fr) := by
  have hmax : fr.length ≤ 254 := hfr.2.1
  refine { h with
    pendWf := Memory.writeBytes_wf fr h.pendWf (by simp only [Config.rxCap]; omega)
    mail := fun _ => ⟨fr, ?_, hfr⟩ }
  have hlen : (s.placePending fr).pendlen.val = fr.length := Nat.mod_eq_of_lt (by omega)
  rw [hlen]
  exact Memory.readBytes_writeBytes s.pendbuf 0 fr

theorem dispatch (h : Inv s) {fr : List Byte} (hfr : s.rxbuf.readBytes 0 s.rxlen.val = some fr)
    (hc : Complete s.cfg fr) : Inv (dispatch fr s) := by
  obtain ⟨hm, hsize⟩ := h.complete_bounds hfr hc
  by_cases hack : byteAt fr 1 = s.cfg.ackOpcode
  · rw [dispatch_ack hack]
    exact (h.emitObs hsize).emptyRx
  · rw [dispatch_reply hack]
    exact ((h.emitObs hsize).placePending ⟨hsize.1, hsize.2, hack, hc.2.2, hm⟩).emptyRx

/-! ### Every step keeps the invariant -/

theorem stateWrite (h : Inv s) (i : Instr) : Inv (stateWrite i s) := by
  cases i with
  | start a => exact h.start
  | stop a => exact h.stopRun
  | pclr a => exact h.clearPending
  | ctrlw a => exact h.setChken _
  | reset a => exact resetBlock h.obsSizes h.rspSizes
  | rxeof b => exact h.close
  | _ => exact h

theorem execRxb (h : Inv s) {b : Byte} {t : State} (hexec : execRxb b s = .next t) : Inv t := by
  obtain ⟨-, u, rfl, rfl | ⟨fr, hfr, hc, rfl⟩⟩ := execRxb_next hexec
  · exact h.detectMarker_appendRx b
  · exact (h.detectMarker_appendRx b).dispatch hfr hc

theorem exec (h : Inv s) {i : Instr} {t : State} (hwf : i.wf = true) (hexec : exec i s = .next t) : Inv t := by
  cases hargs : i.args? with
  | some a =>
    obtain ⟨r, rfl, hr⟩ := exec_command_sized hexec (Option.isSome_of_eq_some hargs) hwf
    exact (h.stateWrite i).respond hr
  | none =>
    cases i with
    | rxb b => exact h.execRxb hexec
    | rxeof b =>
      obtain ⟨-, rfl⟩ := execRxeof_next (b := b) hexec
      exact h.close
    | _ => cases hargs

/-- In a state of the invariant a command goes on, and so does an event of a running receiver. -/
theorem exec_goesOn (h : Inv s) {i : Instr} (hi : i.args?.isSome = true ∨ s.run = true) :
    GoesOn (Machine.exec i s) := by
  obtain hnext | ⟨-, hargs, hrun⟩ | ⟨-, ⟨a, -, hp, hheld⟩ | ⟨b, -, -, hheld⟩⟩ := exec_cases i s
  · exact hnext
  · simp [hargs, hrun] at hi
  · obtain ⟨fr, hfr, -⟩ := h.mail hp
    exact absurd (PendHeld.of_readBytes hfr) hheld
  · exact absurd h.rxHeld hheld

end Inv

/-! ### The statements -/

/-- Settles O52: what the turn came to runs from a state of the invariant, and `exec` of what the decoders give keeps
it. -/

theorem stepKeepsTheInvariant : Obligations.StepKeepsTheInvariant := by
  intro s t h hstep
  obtain ⟨i, rest, turns, -, hd, hexec⟩ | ⟨rest, turns, -, -, rfl⟩ | ⟨sym, rest, turns, -, -, -, hexec⟩ | rfl :=
    step_next_cases hstep
  · exact (h.setInputs turns rest s.rxIn).exec (decodeRequest_instr_wf hd) hexec
  · exact (h.setInputs turns rest s.rxIn).respond (Nat.zero_le 255)
  · exact (h.setInputs turns s.cmdIn rest).exec (decodeSymbol_wf sym) hexec
  · exact h.setInputs s.sched.tail s.cmdIn s.rxIn

/-- Settles O53: by what the turn comes to; an event runs while `RUN = 1` only. -/
theorem stepAlwaysGoesOn : Obligations.StepAlwaysGoesOn := by
  intro s h
  obtain ⟨i, rest, turns, -, hd, hf⟩ | ⟨rest, turns, -, -, hf⟩ | ⟨sym, rest, turns, -, hrun, -, hf⟩ | hf :=
    fetch_cases s <;> simp only [step, hf]
  · exact (h.setInputs turns rest s.rxIn).exec_goesOn (.inl (decodeRequest_instr_args hd))
  · exact ⟨_, rfl⟩
  · exact (h.setInputs turns s.cmdIn rest).exec_goesOn (.inr hrun)
  · exact ⟨_, rfl⟩

/-- Settles O38: the frame is a complete accumulation, whose bounds are R159's. -/
theorem dispatchedFramesHaveFourTo254Bytes : Obligations.DispatchedFramesHaveFourTo254Bytes := by
  intro s t b h hexec
  obtain ⟨-, u, hu, rfl | ⟨fr, hfr, hc, rfl⟩⟩ := execRxb_next hexec
  · obtain ⟨n, hn⟩ := detectMarker_eq b s
    rw [hu, hn]
    exact .inl rfl
  · obtain ⟨n, hn⟩ := detectMarker_eq b s
    obtain ⟨-, hsize⟩ := (hu ▸ h.detectMarker_appendRx b : Inv u).complete_bounds hfr hc
    refine .inr ⟨fr, ?_, hsize⟩
    rw [dispatch_obsOut, hu, hn]
    rfl

/-- Settles O50: each part is read off the outcomes of `exec`. -/
theorem stopsComeOnlyFromUnwrittenBytesOrAStoppedReceiver :
    Obligations.StopsComeOnlyFromUnwrittenBytesOrAStoppedReceiver := by
  intro i s
  have hevent : i.args? = none ∧ s.run = false → exec i s = .fault .receiverStopped :=
    fun ⟨he, hrun⟩ => exec_event_of_stopped he hrun
  have hpread : ∀ a, i = .pread a → s.pendv = true → ¬ PendHeld s → exec i s = .fault .noValue :=
    fun _ hi hp hheld => hi ▸ exec_pread_of_unheld hp hheld
  obtain ⟨t, hnext⟩ | ⟨hstop, hwhy⟩ | ⟨hstop, hwhy⟩ := exec_cases i s
  · exact ⟨by rw [hnext]; nofun, ⟨by rw [hnext]; nofun, hevent⟩, by rw [hnext]; nofun, hpread⟩
  · exact ⟨by rw [hstop]; nofun, ⟨fun _ => hwhy, hevent⟩, by rw [hstop]; nofun, hpread⟩
  · exact ⟨by rw [hstop]; nofun, ⟨by rw [hstop]; nofun, hevent⟩, fun _ => hwhy, hpread⟩

/-- Settles O51: the state elements have the reset values, and no output has been given. -/
theorem resetMeetsTheInvariant : Obligations.ResetMeetsTheInvariant :=
  Inv.resetBlock (s := State.reset) nofun nofun

end Sys2Proof.Machine
end

section
/-! SUPPORT. `FIN` and `PARSE` by the frame's class (41_frame_codec.md R122, R125, R128, R130): the patcher byte by
byte, when its output is finalised, the frames it leaves alone, and the statements that say so. -/

namespace Sys2Proof.Machine

/-! ### The patcher, byte by byte -/

/-- Before the last place the patcher writes the length, and only that (R122). -/
theorem byteAt_patch (p : Params) {s : List Byte} {i : Nat} (hi : i + 1 < s.length) :
    byteAt (patch p s) i =
      if i = lengthOffset p (byteAt s 1) then BitVec.ofNat 8 s.length else byteAt s i := by
  have hlast : s.length - 1 ≠ i := by omega
  simp only [patch, byteAt, List.getD_eq_getElem?_getD, List.getElem?_set_ne hlast]
  by_cases hlo : i = lengthOffset p (s[1]?.getD 0#8)
  · rw [if_pos hlo, ← hlo, List.getElem?_set_self (by omega), Option.getD_some]
  · rw [if_neg hlo, List.getElem?_set_ne (Ne.symm hlo)]

/-- The length byte of a patched frame. -/
theorem byteAt_patch_lengthOffset (p : Params) {s : List Byte} (h : 4 ≤ s.length) :
    byteAt (patch p s) (lengthOffset p (byteAt s 1)) = BitVec.ofNat 8 s.length := by
  have hlo := lengthOffset_cases p (byteAt s 1)
  rw [byteAt_patch p (by omega), if_pos rfl]

theorem byteAt_patch_of_ne (p : Params) {s : List Byte} {i : Nat} (hi : i + 1 < s.length)
    (hlo : i ≠ lengthOffset p (byteAt s 1)) : byteAt (patch p s) i = byteAt s i := by
  rw [byteAt_patch p hi, if_neg hlo]

theorem ofNat_length_toNat {s : List Byte} (h : s.length ≤ 255) : (BitVec.ofNat 8 s.length).toNat = s.length := by
  rw [BitVec.toNat_ofNat]
  omega

section
variable {p : Params} {s : List Byte} (h4 : 4 ≤ s.length)
include h4

/-- In the normal class the opcode stays. -/
theorem byteAt_one_patch_of_normal (hclass : byteAt s 1 ∉ p.shortSet) : byteAt (patch p s) 1 = byteAt s 1 :=
  byteAt_patch_of_ne p (by omega) (by rw [lengthOffset_not_mem hclass]; decide)

/-- In the short-header class the length replaces the opcode. -/
theorem byteAt_one_patch_of_short (hclass : byteAt s 1 ∈ p.shortSet) :
    byteAt (patch p s) 1 = BitVec.ofNat 8 s.length := by
  have hlen := byteAt_patch_lengthOffset p h4
  rwa [lengthOffset_mem hclass] at hlen

/-- A patched frame is finalised when the byte that its own byte 1 selects is its length (R75). -/
theorem finalised_patch_iff (h255 : s.length ≤ 255) :
    Finalised p (patch p s) ↔
      (byteAt (patch p s) (lengthOffset p (byteAt (patch p s) 1))).toNat = s.length := by
  simp only [Finalised, patch_length, xorFold_patch p (show 0 < s.length by omega), h4, h255, true_and, and_true]

theorem finalised_patch_of_normal (h255 : s.length ≤ 255) (hclass : byteAt s 1 ∉ p.shortSet) :
    Finalised p (patch p s) := by
  rw [finalised_patch_iff h4 h255, byteAt_one_patch_of_normal h4 hclass, byteAt_patch_lengthOffset p h4,
    ofNat_length_toNat h255]

/-- R125 with the corner it leaves out (log entry 16). -/
theorem finalised_patch_iff_of_short (h255 : s.length ≤ 255) (hclass : byteAt s 1 ∈ p.shortSet) :
    Finalised p (patch p s) ↔ BitVec.ofNat 8 s.length ∈ p.shortSet ∨ (byteAt s 2).toNat = s.length := by
  have hop := byteAt_one_patch_of_short h4 hclass
  rw [finalised_patch_iff h4 h255, hop]
  by_cases hn : BitVec.ofNat 8 s.length ∈ p.shortSet
  · simp [lengthOffset_mem hn, hop, hn, Nat.mod_eq_of_lt (show s.length < 256 by omega)]
  · rw [lengthOffset_not_mem hn, byteAt_patch_of_ne p (by omega) (by rw [lengthOffset_mem hclass]; decide)]
    exact (or_iff_right hn).symm

end

/-! ### The frames the patcher leaves alone -/

/-- The last byte of a byte string that folds to 0 is the fold of the others (R74). -/
theorem getElem_last_of_xorFold_eq_zero {s : List Byte} (h : 0 < s.length) (hx : xorFold s = 0#8) :
    s[s.length - 1] = xorFold (s.take (s.length - 1)) := by
  have hsplit : s.take (s.length - 1) ++ [s[s.length - 1]] = s := by
    rw [List.take_append_getElem, Nat.sub_add_cancel h, List.take_length]
  rw [← hsplit, xorFold_append, xorFold_cons, xorFold_nil, BitVec.xor_zero, BitVec.xor_eq_zero_iff] at hx
  exact hx.symm

/-- Patching a finalised frame writes what stands there (R130). -/
theorem patch_of_finalised {p : Params} {s : List Byte} (h : Finalised p s) : patch p s = s := by
  obtain ⟨h4, -, hlen, hx⟩ := h
  have hlo : lengthOffset p (byteAt s 1) < s.length := by
    have := lengthOffset_cases p (byteAt s 1)
    omega
  have hsame : s.set (lengthOffset p (byteAt s 1)) (BitVec.ofNat 8 s.length) = s := by
    rw [← hlen, BitVec.ofNat_toNat, BitVec.setWidth_eq, byteAt_eq_getElem hlo, List.set_getElem_self]
  simp only [patch, hsame]
  rw [← getElem_last_of_xorFold_eq_zero (by omega) hx, List.set_getElem_self]

/-! ### `FIN` and the short-header class -/

theorem exec_fin_of_short {a : Args} (s : State) (h : a.data.length < 4) :
    exec (.fin a) s = raise (.buildReject .short) s := by
  simp only [exec, execFin, finalise, if_pos (show a.data.length < Config.minFrame from h)]

theorem exec_fin_of_four_le {a : Args} (s : State) (h : 4 ≤ a.data.length) :
    exec (.fin a) s = reply 0#8 0#8 (patch s.cfg a.data) s := by
  simp only [exec, execFin, finalise_of_four_le _ h]

/-- A built frame of the short-header class in full: nothing of the opcode is left (R128). -/
theorem patch_assemble_of_short_eq {p : Params} {op : Byte} (payload : List Byte) (h : op ∈ p.shortSet) :
    patch p (assemble op payload) =
      [Config.marker, BitVec.ofNat 8 (payload.length + 4), 0#8] ++ payload ++
        [Config.marker ^^^ BitVec.ofNat 8 (payload.length + 4) ^^^ xorFold payload] := by
  rw [assemble, patch_split]
  simp only [if_pos h, BitVec.zero_xor, BitVec.xor_assoc]

/-! ### The statements -/

/-- Settles O26: the patcher byte by byte, at the offset of the incoming byte 1. -/
theorem finPatchesLengthAndChecksum : Obligations.FinPatchesLengthAndChecksum := by
  refine fun s a hwf => ⟨rfl, exec_fin_of_short s, fun h4 => ⟨_, exec_fin_of_four_le s h4, patch_length .., ?_⟩⟩
  have h255 : a.data.length ≤ 255 := of_decide_eq_true hwf
  refine ⟨xorFold_patch _ (by omega), ?bytes, fun hclass => ?normal, fun hclass => ?short⟩
  case bytes =>
    rintro _ rfl
    change (byteAt _ (lengthOffset s.cfg (byteAt a.data 1))).toNat = _ ∧
      ∀ i < _, i ≠ lengthOffset s.cfg (byteAt a.data 1) → _
    refine ⟨by rw [byteAt_patch_lengthOffset _ h4, ofNat_length_toNat h255], fun i hi hlo hlast => ?_⟩
    exact byteAt_patch_of_ne _ (by omega) hlo
  case normal => exact ⟨byteAt_one_patch_of_normal h4 hclass, finalised_patch_of_normal h4 h255 hclass⟩
  case short =>
    refine ⟨?_, finalised_patch_iff_of_short h4 h255 hclass⟩
    rw [byteAt_one_patch_of_short h4 hclass, ofNat_length_toNat h255]

/-- Settles O31: the first output is finalised unless the class changes, and then the second application finds the
length at offset 1 and writes it at offset 2. -/
theorem finIsIdempotentUnlessTheClassChanges : Obligations.FinIsIdempotentUnlessTheClassChanges := by
  intro s a h4 h255
  have ht4 : 4 ≤ (patch s.cfg a.data).length := by rwa [patch_length]
  refine ⟨_, _, exec_fin_of_four_le s h4, exec_fin_of_four_le (a := { a with data := patch s.cfg a.data }) s ht4,
    fun hkeeps => patch_of_finalised ?keeps, fun hclass hn => ?changes⟩
  case keeps =>
    by_cases hclass : byteAt a.data 1 ∈ s.cfg.shortSet
    · exact (finalised_patch_iff_of_short h4 h255 hclass).mpr (.inl (hkeeps.resolve_left (not_not.mpr hclass)))
    · exact finalised_patch_of_normal h4 h255 hclass
  case changes =>
    have hop := byteAt_one_patch_of_short h4 hclass
    have hclass' : byteAt (patch s.cfg a.data) 1 ∉ s.cfg.shortSet := by rwa [hop]
    have hlen := byteAt_patch_lengthOffset s.cfg ht4
    rw [lengthOffset_not_mem hclass', patch_length] at hlen
    refine ⟨?_, ?_, xorFold_patch _ (Nat.zero_lt_of_lt ht4)⟩
    · rw [byteAt_one_patch_of_normal ht4 hclass', hop, ofNat_length_toNat h255]
    · rw [hlen, ofNat_length_toNat h255]

/-- Settles O30: the built frame in full does not mention its opcode; as a frame of its own, byte 1 is its length. -/
theorem shortHeaderFramesLoseTheirOpcode : Obligations.ShortHeaderFramesLoseTheirOpcode := by
  intro s a hclass hfits
  have hsize := frameSize_toNat hfits
  refine ⟨_, _, _, hsize, rfl, rfl, fun a' hclass' hdata => ?built,
    fun p hp hf => ⟨fun hn => ?parses, fun hn => ?fails⟩⟩
  case built => rw [exec_build_of_fits s (by rwa [hdata]), hdata, patch_assemble_of_short_eq _ hclass']; rfl
  case parses =>
    refine exec_parse_of_sound hp ?declared (.inr ?folds) (.inl hf)
    case declared => rw [if_pos hn, hsize, hp]; simp
    case folds => rw [hp]; exact patch_assemble_of_short_eq a.data hclass ▸ xorFold_patch_assemble s.cfg a.a0 a.data
  case fails =>
    apply exec_parse_of_error
    rw [parseFrame_split _ _ _ _ _ _ _ _ _ _ hp, if_neg hn, if_pos]
    rw [hp]
    simp

end Sys2Proof.Machine
end

section
/-! SUPPORT. Responses on the port (30_encoding.md R81, 60_exceptions.md R190): the header as bytes, the pair of codes
of each error, and the statement that says so. -/

namespace Sys2Proof.Machine

theorem responseHeader_ok (r1 r0 : Byte) (data : List Byte) :
    responseHeader (.ok r1 r0 data) = joinBytes 0#8 r1 r0 (BitVec.ofNat 8 data.length) := rfl

/-- A response travels as the bytes of its header and its data (log entry 15). -/
theorem responseBytes_eq (r : Response) : responseBytes r = wordBytes (responseHeader r) ++ responseData r := rfl

/-- The codes of an error, `err` and `cause` (R190). -/
def errorCodes (e : CmdError) : Nat × Nat := ((errCode (errorKind e)).toNat, (errorCause e).toNat)

theorem errorCodes_byte (e : CmdError) :
    errCode (errorKind e) ++ errorCause e = BitVec.ofNat 8 ((errorCodes e).1 * 16 + (errorCodes e).2) := by
  apply BitVec.eq_of_toNat_eq
  have herr := (errCode (errorKind e)).isLt
  have hcause := (errorCause e).isLt
  rw [BitVec.toNat_append, ← Nat.shiftLeft_add_eq_or_of_lt hcause, Nat.shiftLeft_eq, BitVec.toNat_ofNat, errorCodes]
  omega

/-- Settles O7: the header as four bytes; each error's codes are computed. -/
theorem responseHeaderFieldsAndErrorCodes : Obligations.ResponseHeaderFieldsAndErrorCodes := by
  refine ⟨fun r1 r0 data hlen => ⟨?value, ?bytes⟩, fun e => ⟨_, _, responseHeader_error_toNat e, ?errorBytes, ?codes⟩⟩
  case value =>
    rw [responseHeader_ok, joinBytes_toNat, ofNat_length_toNat hlen, BitVec.toNat_ofNat]
    omega
  case bytes =>
    rw [responseBytes_eq, responseHeader_ok, wordBytes_joinBytes]
    rfl
  case errorBytes =>
    rw [responseBytes_eq, responseHeader_error, wordBytes_joinBytes, errorCodes_byte]
    rfl
  case codes =>
    cases e with
    | malformedFrame c => cases c <;> decide
    | buildReject c => cases c <;> decide
    | rangeError => decide
    | illegalCommand c => cases c <;> decide

end Sys2Proof.Machine
end

section
/-! SUPPORT. Reception (42_frame_receiver.md R152, R153, R157 to R159): what `RXB` leaves unchanged, the dispatch's
mailbox, a run of receiver turns over the bytes of a well-formed frame, and the statements that say so. -/

namespace Sys2Proof.Machine

/-! ### What `RXB` leaves unchanged -/

/-- The append writes at `RXLEN` only, and not past the buffer (R22, R23). -/
theorem appendRx_read_other {s : State} (b : Byte) {off : Nat} (h : off ≠ s.rxlen.val ∨ 255 ≤ off) :
    (s.appendRx b).rxbuf.read off = s.rxbuf.read off := by
  rw [State.appendRx_rxbuf]
  split
  · next hlt =>
    simp only [Config.rxCap] at hlt
    exact Memory.read_write_other _ _ (by omega)
  · rfl

/-- A dispatch leaves `PENDBUF` beyond the frame (R24; log entry 8). -/
theorem dispatch_pendbuf_read {fr : List Byte} {s : State} {off : Nat} (h : fr.length ≤ off) :
    (dispatch fr s).pendbuf.read off = s.pendbuf.read off := by
  by_cases hack : byteAt fr 1 = s.cfg.ackOpcode
  · rw [dispatch_ack hack]
    rfl
  · rw [dispatch_reply hack]
    exact (Memory.read_writeBytes ..).trans (if_neg (by omega))

/-- A dispatched frame that is no acknowledgement stands in the mailbox (R153). -/
theorem dispatch_mailbox {fr : List Byte} {s : State} (hlen : fr.length ≤ 255) (hack : byteAt fr 1 ≠ s.cfg.ackOpcode) :
    (dispatch fr s).pendv = true ∧ (dispatch fr s).pendlen.val = fr.length ∧
      (dispatch fr s).pendbuf.readBytes 0 fr.length = some fr := by
  have hread := dispatch_readBytes hlen hack
  rw [dispatch_pendlen hlen hack] at hread
  exact ⟨(dispatch_pendv_iff fr s).mpr (.inr hack), dispatch_pendlen hlen hack, hread⟩

/-- An acknowledgement does not touch the mailbox (R153). -/
theorem dispatch_mailbox_of_ack {fr : List Byte} {s : State} (hack : byteAt fr 1 = s.cfg.ackOpcode) :
    (dispatch fr s).pendv = s.pendv ∧ (dispatch fr s).pendlen = s.pendlen ∧ (dispatch fr s).pendbuf = s.pendbuf := by
  rw [dispatch_ack hack]
  exact ⟨rfl, rfl, rfl⟩

/-- A dispatch writes the mailbox, `RXLEN` and the OBS port, and nothing else. -/
theorem dispatch_frame (fr : List Byte) (s : State) :
    { dispatch fr s with
      obsOut := s.obsOut, rxlen := s.rxlen, pendv := s.pendv, pendlen := s.pendlen, pendbuf := s.pendbuf } = s := by
  by_cases hack : byteAt fr 1 = s.cfg.ackOpcode
  · rw [dispatch_ack hack]
    rfl
  · rw [dispatch_reply hack]
    rfl

/-! ### The completion test along a frame -/

theorem byteAt_append_left {s : List Byte} (t : List Byte) {i : Nat} (h : i < s.length) :
    byteAt (s ++ t) i = byteAt s i :=
  List.getD_append s t 0#8 i h

theorem Finalised.complete {p : Params} {fr : List Byte} (h : Finalised p fr) : Complete p fr := by
  obtain ⟨h4, h255, hlen, -⟩ := h
  exact ⟨h4, h255, hlen⟩

/-- A frame does not complete before its last byte: the byte that its length is read from declares the whole. -/
theorem Finalised.not_complete_of_append {p : Params} {acc rest : List Byte} (h : Finalised p (acc ++ rest))
    (hrest : rest ≠ []) : ¬ Complete p acc := by
  rintro ⟨h3, -, hdeclared⟩
  obtain ⟨-, -, hlen, -⟩ := h
  have hoff := lengthOffset_cases p (byteAt acc 1)
  have hop : byteAt (acc ++ rest) 1 = byteAt acc 1 := byteAt_append_left rest (by omega)
  rw [hop, byteAt_append_left rest (by omega), hdeclared, List.length_append] at hlen
  have := List.length_pos_iff.mpr hrest
  omega

/-- A frame free of later markers is the marker and bytes that are none. -/
theorem MarkerFree.eq_cons {fr : List Byte} (h : MarkerFree fr) (hpos : 0 < fr.length) :
    ∃ rest, fr = Config.marker :: rest ∧ ∀ b ∈ rest, b ≠ Config.marker := by
  obtain ⟨hfirst, hlater⟩ := h
  match fr, hpos with
  | b :: rest, _ =>
    obtain rfl : b = Config.marker := hfirst
    refine ⟨rest, rfl, fun b hb => ?_⟩
    obtain ⟨j, hj, rfl⟩ := List.mem_iff_getElem.mp hb
    have hne := hlater (j + 1) (Nat.succ_lt_succ hj) (Nat.le_add_left 1 j)
    rwa [byteAt_eq_getElem (Nat.succ_lt_succ hj), List.getElem_cons_succ] at hne

/-! ### A run of receiver turns -/

/-- No state before the `n`-th of a run has a new OBS event. -/
def QuietFor (n : Nat) (s : State) : Prop :=
  ∀ k < n, ∃ u, Host.Core.run Sys2Proof.core k s = .next u ∧ u.obsOut = s.obsOut

theorem QuietFor.one (s : State) : QuietFor 1 s := by
  intro k hk
  obtain rfl : k = 0 := Nat.lt_one_iff.mp hk
  exact ⟨s, rfl, rfl⟩

theorem QuietFor.succ {n : Nat} {s s' : State} (h : QuietFor n s') (hstep : step s = .next s')
    (hobs : s'.obsOut = s.obsOut) : QuietFor (n + 1) s := by
  intro k hk
  cases k with
  | zero => exact ⟨s, rfl, rfl⟩
  | succ k =>
    obtain ⟨u, hu, huobs⟩ := h k (Nat.lt_of_succ_lt_succ hk)
    exact ⟨u, (run_next hstep).trans hu, huobs.trans hobs⟩

/-- The state with these symbols at the RX port and these turns left. -/
def State.leaving (s : State) (symbols : List Symbol) (turns : List Agent) : State := (s.setRxIn symbols).setSched turns

section
variable {s : State} {fr : List Byte} {symbols : List Symbol} {turns : List Agent}

/-- The receiver's turn with a byte at the port. -/
theorem step_receiver_byte {b : Byte} {bs : List Byte} (hrun : s.run = true)
    (hx : s.rxIn = rxSymbols (b :: bs) ++ symbols)
    (hs : s.sched = List.replicate (b :: bs).length .receiver ++ turns) :
    step s = exec (.rxb b) (s.leaving (rxSymbols bs ++ symbols) (List.replicate bs.length .receiver ++ turns)) :=
  (step_receiver_symbol hs hrun hx).trans (congrArg (exec · _) (decodeSymbol_byte b))

/-- The accumulation after the turn of a byte that is not the marker. -/
theorem leaving_appendRx_readBytes {b : Byte} {acc : List Byte} (symbols : List Symbol) (turns : List Agent)
    (hlt : s.rxlen.val < 255) (hacc : s.rxbuf.readBytes 0 s.rxlen.val = some acc) :
    ((s.leaving symbols turns).appendRx b).rxbuf.readBytes 0 ((s.leaving symbols turns).appendRx b).rxlen.val =
      some (acc ++ [b]) :=
  (appendRx_readBytes (s := s.leaving symbols turns) b hlt hacc).2

/-- From a receiver that holds the first bytes of a finalised frame, the rest of it at the port, free of markers, runs
to the dispatch of the whole frame at the last byte, and emits nothing before. -/
theorem run_rest_of_frame {rest acc : List Byte} (hfr : fr = acc ++ rest) (hrest : rest ≠ [])
    (hfin : Finalised s.cfg fr) (hmarker : ∀ b ∈ rest, b ≠ Config.marker) (hrun : s.run = true)
    (hacc : s.rxbuf.readBytes 0 s.rxlen.val = some acc) (hx : s.rxIn = rxSymbols rest ++ symbols)
    (hs : s.sched = List.replicate rest.length .receiver ++ turns) :
    QuietFor rest.length s ∧ ∃ buf len, Host.Core.run Sys2Proof.core rest.length s =
      .next (dispatch fr { s.leaving symbols turns with rxbuf := buf, rxlen := len }) := by
  induction rest generalizing acc s with
  | nil => exact absurd rfl hrest
  | cons b rest ih =>
    have hb : b ≠ Config.marker := hmarker b List.mem_cons_self
    have hlt : s.rxlen.val < 255 := by
      have hlen := (Memory.readBytes_eq_some.1 hacc).1
      have hmax : fr.length ≤ 255 := hfin.2.1
      rw [hfr, List.length_append, List.length_cons] at hmax
      omega
    have hstep := step_receiver_byte hrun hx hs
    have hfr' : fr = acc ++ [b] ++ rest := by rw [hfr, List.append_assoc, List.singleton_append]
    by_cases hlast : rest = []
    · subst hlast
      rw [List.append_nil] at hfr'
      subst hfr'
      exact ⟨QuietFor.one s, _, _,
        run_next (hstep.trans (exec_rxb_complete (s := s.leaving _ _) hrun hb hlt hacc hfin.complete))⟩
    · have hc : ¬ Complete s.cfg (acc ++ [b]) := Finalised.not_complete_of_append (hfr' ▸ hfin) hlast
      have hnext := hstep.trans (exec_rxb_incomplete (s := s.leaving _ _) hrun hb hlt hacc hc)
      obtain ⟨hquiet, buf, len, hend⟩ := ih
        (s := (s.leaving (rxSymbols rest ++ symbols) (List.replicate rest.length .receiver ++ turns)).appendRx b)
        hfr' hlast hfin (fun c hc => hmarker c (List.mem_cons_of_mem b hc)) hrun
        (leaving_appendRx_readBytes _ _ hlt hacc) rfl rfl
      exact ⟨hquiet.succ hnext rfl, buf, len, (run_next hnext).trans hend⟩

/-- R158: from any running state, whatever it holds, the marker starts the frame. -/
theorem run_frame (hwf : WellFormedFrame s.cfg fr) (hrun : s.run = true)
    (hx : s.rxIn = rxSymbols fr ++ symbols) (hs : s.sched = List.replicate fr.length .receiver ++ turns) :
    QuietFor fr.length s ∧ ∃ buf len, Host.Core.run Sys2Proof.core fr.length s =
      .next (dispatch fr { s.leaving symbols turns with rxbuf := buf, rxlen := len }) := by
  obtain ⟨hfin, hfree⟩ := hwf
  have h4 : 4 ≤ fr.length := hfin.1
  obtain ⟨rest, rfl, hmarker⟩ := hfree.eq_cons (by omega)
  have hrest : rest ≠ [] := List.length_pos_iff.mp (by rw [List.length_cons] at h4; omega)
  have hnext := (step_receiver_byte hrun hx hs).trans (exec_rxb_marker (s := s.leaving _ _) hrun)
  obtain ⟨hquiet, buf, len, hend⟩ := run_rest_of_frame (acc := [Config.marker])
    (s := (s.leaving (rxSymbols rest ++ symbols) (List.replicate rest.length .receiver ++ turns)).emptyRx.appendRx _)
    rfl hrest hfin hmarker hrun
    (leaving_appendRx_readBytes (s := s.emptyRx) (acc := []) _ _ (show 0 < 255 by decide) rfl) rfl rfl
  exact ⟨hquiet.succ hnext rfl, buf, len, (run_next hnext).trans hend⟩

end

/-! ### A built frame, end to end -/

theorem byteAt_zero_patch (p : Params) {s : List Byte} (h : 4 ≤ s.length) : byteAt (patch p s) 0 = byteAt s 0 :=
  byteAt_patch_of_ne p (by omega) (by have := lengthOffset_cases p (byteAt s 1); omega)

/-- A built frame of the normal class is well-formed when it is free of later markers (R75, R158). -/
theorem wellFormedFrame_built {p : Params} {op : Byte} {payload : List Byte} (hclass : op ∉ p.shortSet)
    (hfits : payload.length ≤ 251) (hm : NoMarkerAfterFirst (patch p (assemble op payload))) :
    WellFormedFrame p (patch p (assemble op payload)) := by
  have hlen := assemble_length op payload
  exact ⟨finalised_patch_of_normal (by omega) (by omega) hclass, byteAt_zero_patch p (by omega), hm⟩

/-- `PARSE` of a built frame of the normal class, from any state of the same configuration (R127). -/
theorem exec_parse_built {s : State} {a q : Args} (hclass : a.a0 ∉ s.cfg.shortSet) (hfits : a.data.length ≤ 251)
    (hq : q.data = patch s.cfg (assemble a.a0 a.data)) (hop : q.a0 = a.a0) :
    exec (.parse q) s = reply 0#8 a.a0 a.data s := by
  obtain ⟨fr, hbuild, hparse⟩ := parseGivesBackWhatBuildWasGiven s s a rfl hclass hfits
  rw [exec_build_of_fits s hfits] at hbuild
  obtain rfl : patch s.cfg (assemble a.a0 a.data) = fr := by simpa [reply, State.respond] using hbuild
  exact hparse q hq (.inr hop)

/-! ### The statements -/

/-- Settles O32: the marker is appended to the emptied buffer. -/
theorem markerByteStartsANewAccumulation : Obligations.MarkerByteStartsANewAccumulation := fun s hrun =>
  ⟨_, exec_rxb_marker hrun, rfl, appendRx_read_rxlen (s := s.emptyRx) _ (show 0 < 255 by decide),
    fun _ hoff => appendRx_read_other (s := s.emptyRx) _ (.inl hoff), rfl⟩

/-- Settles O33: the rows of `RXB` for an incomplete and for a full accumulation. -/
theorem incompleteByteIsAppended : Obligations.IncompleteByteIsAppended := by
  refine ⟨fun s b acc hrun hb hlt hacc hc => ?_, fun s b => exec_rxb_full⟩
  obtain ⟨hlen, hread⟩ := appendRx_readBytes b hlt hacc
  exact ⟨_, exec_rxb_incomplete hrun hb hlt hacc hc, hlen, hread, fun _ hoff => appendRx_read_other b (.inl hoff), rfl⟩

/-- Settles O34: the row of `RXB` for a complete accumulation is the dispatch. -/
theorem completedFrameIsDispatched : Obligations.CompletedFrameIsDispatched := by
  rintro s b acc _ hrun hb hacc rfl hc
  have hmax : (acc ++ [b]).length ≤ 255 := hc.2.1
  have hlt : s.rxlen.val < 255 := by
    have hlen := (Memory.readBytes_eq_some.1 hacc).1
    rw [List.length_append, List.length_singleton] at hmax
    omega
  refine ⟨_, exec_rxb_complete hrun hb hlt hacc hc, dispatch_obsOut .., rfl, fun off hoff => ?_, fun hack => ?_,
    fun hack => dispatch_mailbox_of_ack (s := s.appendRx b) hack, ?_⟩
  · rw [dispatch_rxbuf]
    exact appendRx_read_other b (.inl hoff)
  · obtain ⟨hpendv, hmail⟩ := dispatch_mailbox (s := s.appendRx b) hmax hack
    exact ⟨hpendv, hpendv, hmail.1, hmail.2, fun _ hoff => dispatch_pendbuf_read hoff⟩
  · exact congrArg (fun t : State => { t with rxlen := s.rxlen, rxbuf := s.rxbuf })
      (dispatch_frame (acc ++ [b]) (s.appendRx b))

/-- Settles O37: the append after the detector, and perhaps a dispatch. -/
theorem rxbFrame : Obligations.RxbFrame := by
  intro s t b h
  obtain ⟨n, hn⟩ := detectMarker_eq b s
  rw [rxStoreOffset, hn]
  obtain ⟨-, u, hu, hcases⟩ := execRxb_next h
  rw [hn] at hu
  obtain rfl | ⟨fr, -, -, rfl⟩ := hcases
  · subst hu
    exact ⟨fun _ => appendRx_read_other b, fun _ => ⟨rfl, rfl, rfl⟩, fun fr hobs => by simp at hobs,
      rfl, rfl, rfl, rfl, rfl, rfl, rfl, rfl⟩
  · subst hu
    refine ⟨fun off hoff => ?_, fun hobs => by simp at hobs, fun fr' hobs off hoff => ?_, dispatch_run ..,
      dispatch_tclosed .., dispatch_chken .., dispatch_cfg .., dispatch_cmdIn .., dispatch_rxIn .., dispatch_sched ..,
      dispatch_rspOut ..⟩
    · rw [dispatch_rxbuf]
      exact appendRx_read_other b hoff
    · obtain rfl : fr = fr' := by simpa using hobs
      exact dispatch_pendbuf_read hoff

/-- Settles O39: the run of a frame ends in its dispatch. -/
theorem wellFormedFrameIsReceivedWhole : Obligations.WellFormedFrameIsReceivedWhole := by
  intro s fr symbols turns hrun hwf hx hs
  obtain ⟨hquiet, buf, len, hend⟩ := run_frame hwf hrun hx hs
  obtain ⟨⟨-, hmax, -⟩, -⟩ := hwf
  exact ⟨hquiet, _, hend, dispatch_rxIn .., dispatch_sched .., (dispatch_run ..).trans hrun, rfl, dispatch_obsOut ..,
    dispatch_rspOut .., dispatch_cfg .., dispatch_chken .., fun hack => dispatch_mailbox hmax hack,
    fun hack => dispatch_mailbox_of_ack hack⟩

/-- Settles O40: the built frame is well-formed, so it is received whole; the mailbox and the configuration that the
reception ends with are what `PREAD` and `PARSE` need. -/
theorem builtFrameComesBackThroughTheReceiver : Obligations.BuiltFrameComesBackThroughTheReceiver := by
  intro s a _ hclass hack hfits
  refine ⟨_, exec_build_of_fits s hfits, fun hm r hrrun hcfg hx hs => ?_⟩
  have hop : byteAt (patch s.cfg (assemble a.a0 a.data)) 1 = a.a0 :=
    byteAt_one_patch_of_normal (by rw [assemble_length]; omega) hclass
  obtain ⟨-, t, hend, -, -, -, -, -, -, htcfg, -, hmail, -⟩ :=
    wellFormedFrameIsReceivedWhole r (patch s.cfg (assemble a.a0 a.data)) [] [] hrrun
      (by rw [hcfg]; exact wellFormedFrame_built hclass hfits hm) (hx.trans (List.append_nil _).symm)
      (hs.trans (List.append_nil _).symm)
  obtain ⟨hpendv, hpendlen, hread⟩ := hmail (by rwa [hop, hcfg])
  have hcfg' : t.cfg = s.cfg := htcfg.trans hcfg
  rw [← hpendlen] at hread
  refine ⟨t, hend, fun q => exec_pread_of_populated q hpendv hread, fun q hq _ hq0 => ?_⟩
  exact exec_parse_built (by rwa [hcfg']) hfits (by rw [hcfg', hq]) hq0

end Sys2Proof.Machine
end

section
/-! SUPPORT. What operations read and leave (10_state.md R29, R31, R32; 20_memory.md R55, R61; 30_encoding.md R85):
`CHKEN`, the buffers, the reset state, the operands, and the statements that say so. -/

namespace Sys2Proof.Machine

/-! ### What `CHKEN` does to `RXB` -/

/-- In two states with one accumulation and one configuration the completion test comes to the same: a stop, nothing, or
the dispatch of one frame. -/
theorem completeRx_congr {s s' : State} (hbuf : s'.rxbuf = s.rxbuf) (hlen : s'.rxlen = s.rxlen)
    (hcfg : s'.cfg = s.cfg) :
    (completeRx s = .fault .noValue ∧ completeRx s' = .fault .noValue) ∨
      (completeRx s = .next s ∧ completeRx s' = .next s') ∨
      ∃ fr, completeRx s = .next (dispatch fr s) ∧ completeRx s' = .next (dispatch fr s') := by
  simp only [completeRx, hbuf, hlen, hcfg]
  by_cases hn : 3 < s.rxlen.val ∧ s.rxlen.val ≤ Config.rxCap
  · simp only [if_pos hn]
    cases s.rxbuf.read 1 with
    | none => exact .inl ⟨rfl, rfl⟩
    | some op =>
      dsimp only
      cases s.rxbuf.read (lengthOffset s.cfg op) with
      | none => exact .inl ⟨rfl, rfl⟩
      | some len =>
        dsimp only
        by_cases hdeclared : len.toNat = s.rxlen.val
        · simp only [if_pos hdeclared]
          cases s.rxbuf.readBytes 0 s.rxlen.val with
          | none => exact .inl ⟨rfl, rfl⟩
          | some fr => exact .inr (.inr ⟨fr, rfl, rfl⟩)
        · simp [if_neg hdeclared]
  · simp [if_neg hn]

theorem dispatch_setChken (fr : List Byte) (s : State) (v : Bool) :
    dispatch fr (s.setChken v) = (dispatch fr s).setChken v := by
  by_cases hack : byteAt fr 1 = s.cfg.ackOpcode
  · rw [dispatch_ack hack, dispatch_ack (s := s.setChken v) hack]
    rfl
  · rw [dispatch_reply hack, dispatch_reply (s := s.setChken v) hack]
    rfl

theorem detectMarker_setChken (b : Byte) (s : State) (v : Bool) :
    detectMarker b (s.setChken v) = (detectMarker b s).setChken v := by
  rw [detectMarker, detectMarker]
  split <;> rfl

/-- `RXB` does the same whatever `CHKEN` is (R29). -/
theorem exec_rxb_setChken {b : Byte} {s t : State} (v : Bool) (h : exec (.rxb b) s = .next t) :
    exec (.rxb b) (s.setChken v) = .next (t.setChken v) := by
  obtain ⟨hrun, -⟩ := execRxb_next (b := b) h
  rw [exec_rxb_of_running b hrun] at h
  rw [exec_rxb_of_running (s := s.setChken v) b hrun, detectMarker_setChken]
  obtain ⟨hs, -⟩ | ⟨hs, hv⟩ | ⟨fr, hs, hv⟩ :=
    completeRx_congr (s := (detectMarker b s).appendRx b) (s' := ((detectMarker b s).setChken v).appendRx b) rfl rfl rfl
  · rw [hs] at h
    cases h
  · rw [hs] at h
    cases h
    exact hv
  · rw [hs] at h
    cases h
    exact hv.trans (congrArg _ (dispatch_setChken fr ((detectMarker b s).appendRx b) v))

theorem execRxb_chken {b : Byte} {s t : State} (h : execRxb b s = .next t) : t.chken = s.chken := by
  obtain ⟨buf, len, rfl | ⟨fr, rfl⟩⟩ := execRxb_next_dispatch h
  · rfl
  · exact dispatch_chken fr _

/-! ### What commands read of the receive buffer -/

/-- The state with another receive buffer and count. -/
def State.withRx (s : State) (buf : Memory) (len : Fin 257) : State := { s with rxbuf := buf, rxlen := len }

/-- A command does the same whatever the receive buffer holds (R31). -/
theorem exec_command_withRx {i : Instr} {s t : State} (buf : Memory) (len : Fin 257) (hc : i.args?.isSome = true)
    (h : exec i s = .next t) : ∃ t', exec i (s.withRx buf len) = .next t' ∧ t'.withRx t.rxbuf t.rxlen = t := by
  by_cases hpure : isPure i = true
  · obtain ⟨r, hr, hr'⟩ := exec_pure_congr (s := s) (s' := s.withRx buf len) hpure rfl fun _ => rfl
    rw [hr] at h
    cases h
    exact ⟨_, hr', rfl⟩
  cases i with
  | reserved7 a | start a | stop a | pclr a | ctrlw a | statr a | reservedE a | reset a =>
    injection h with h
    subst h
    exact ⟨_, rfl, rfl⟩
  | pread a =>
    obtain ⟨r, rfl, hfull, hempty⟩ := execPread_next (a := a) h
    cases hp : s.pendv with
    | false =>
      rw [hempty hp]
      exact ⟨_, exec_pread_of_empty (s := s.withRx buf len) a hp, rfl⟩
    | true =>
      obtain ⟨fr, hfr, rfl⟩ := hfull hp
      exact ⟨_, exec_pread_of_populated (s := s.withRx buf len) a hp hfr, rfl⟩
  | rxb b | rxeof b => cases hc
  | _ => exact absurd rfl hpure

/-! ### The reset state -/

/-- The CSR at the reset values of its flags (R27, R32). -/
theorem csr_resetBlock_respond (s : State) (r : Response) : csr (s.resetBlock.respond r) = 0x02#8 := by
  simp only [csr, State.respond_run, State.respond_chken, State.respond_pendv, State.respond_tclosed,
    State.resetBlock_run, State.resetBlock_chken, State.resetBlock_pendv, State.resetBlock_tclosed]
  rfl

/-! ### The statements -/

/-- Settles O44: the writes of `CHKEN` are those of `CTRLW` and `RESET`; the pure operations named read the parameters
only, and `RXB` the accumulation and the parameters. -/
theorem chkenIsWrittenByCtrlwResetOnlyAndIgnoredByRxbChkvFinBuild :
    Obligations.ChkenIsWrittenByCtrlwResetOnlyAndIgnoredByRxbChkvFinBuild := by
  refine ⟨fun i s t h => ?_, fun i s v hi t h => ?_⟩
  · cases i with
    | rxb b => exact execRxb_chken h
    | _ => obtain ⟨rsp, rfl⟩ := exec_next_stateWrite h nofun; rfl
  · obtain ⟨a, hi⟩ | ⟨b, rfl⟩ := hi
    · have hpure : isPure i = true := by obtain rfl | rfl | rfl := hi <;> rfl
      have hparse : ¬ ∃ b, i = .parse b := by
        rintro ⟨b, rfl⟩
        simp at hi
      obtain ⟨r, hr, hr'⟩ := exec_pure_congr (s := s) (s' := s.setChken v) hpure rfl fun h => absurd h hparse
      rw [hr] at h
      cases h
      exact hr'
    · exact exec_rxb_setChken v h

/-- Settles O48: by the reads of each command. -/
theorem commandsCannotSeeTheReceiveBuffer : Obligations.CommandsCannotSeeTheReceiveBuffer :=
  fun _ _ _ buf len => exec_command_withRx buf len

/-- Settles O49: a command writes nothing but `stateWrite`, whose writes of the buffers are those of `RESET` and
`START`. -/
theorem commandsLeaveTheBuffersUnchanged : Obligations.CommandsLeaveTheBuffersUnchanged := by
  intro i s t hc h
  obtain ⟨-, hcmd, hrx, hsched⟩ := exec_keeps_ports h
  refine ⟨hcmd, hrx, hsched, ?_⟩
  cases i with
  | rxb b | rxeof b => cases hc
  | reset a => exact ⟨fun hsel => absurd rfl hsel, fun hsel => absurd rfl hsel⟩
  | start a =>
    obtain ⟨rsp, rfl⟩ := exec_next_stateWrite h nofun
    exact ⟨fun _ => ⟨fun _ => rfl, fun _ => rfl, rfl⟩, fun _ hsel => absurd rfl hsel⟩
  | _ =>
    obtain ⟨rsp, rfl⟩ := exec_next_stateWrite h nofun
    exact ⟨fun _ => ⟨fun _ => rfl, fun _ => rfl, rfl⟩, fun _ _ => rfl⟩

/-- Settles O5: each operation reads the operands that the statement names, and no other. -/
theorem fieldsAnOperationDoesNotUseAreIgnored : Obligations.FieldsAnOperationDoesNotUseAreIgnored := by
  refine fun s a a' => ⟨?noOperands, fun h1 h0 => ⟨?venc, ?vdec⟩, fun hd => ⟨?chkv, ?fin⟩, fun h0 hd => ?build,
    fun hf h0 hd => ?parse, fun h0 => ?ctrlw, fun _ _ => rfl⟩
  case noOperands =>
    intro op hop
    fin_cases hop <;> rfl
  case venc =>
    have hv : signedOperand a = signedOperand a' := by rw [signedOperand, signedOperand, h1, h0]
    simp only [exec, execVenc, hv]
  case vdec => simp only [exec, execVdec, h1, h0]
  case chkv => simp only [exec, execChkv, hd]
  case fin => simp only [exec, execFin, hd]
  case build => simp only [exec, execBuild, h0, hd]
  case parse =>
    have hexpect : parseFrame s.cfg s.chken a.f a.a0 a.data = parseFrame s.cfg s.chken a'.f a'.a0 a'.data := by
      rw [← hf, ← hd]
      cases hv : a.f with
      | false => simp [parseFrame]
      | true => rw [h0 hv]
    simp only [exec, execParse, hexpect]
  case ctrlw => simp only [exec, execCtrlw, h0]

/-- Settles O13: the reset values, with the CSR and the empty mailbox that follow from them. -/
theorem resetAndPowerOnGiveTheResetState : Obligations.ResetAndPowerOnGiveTheResetState :=
  ⟨⟨rfl, rfl, rfl, rfl, rfl, fun _ => rfl, fun _ => rfl, rfl, fun _ b => exec_pread_of_empty b rfl⟩,
    fun s _ => ⟨rfl, _, rfl, rfl, rfl, rfl, rfl, rfl, fun _ => rfl, fun _ => rfl, csr_resetBlock_respond s _,
      fun _ b => exec_pread_of_empty b rfl, rfl, rfl, rfl, rfl, rfl, rfl⟩⟩

/-- Settles O15: `START` is its three writes and its response (R155). -/
theorem startRunsTheReceiverFromAnEmptyBuffer : Obligations.StartRunsTheReceiverFromAnEmptyBuffer :=
  fun _ _ => ⟨rfl, rfl⟩

end Sys2Proof.Machine
end
